-- ==== Sys2Proof/Word.lean ====
section
/-!
DEFINITION. The widths of the core's values, from `00_scope.md` R6, R7 and `10_state.md`.
-/

namespace Sys2Proof

/-- A memory byte, a general register, a timer, the immediate KK (R20, R28, R33, R71). -/
abbrev Byte := BitVec 8

/-- An instruction word, I, PC, a stack entry (R22, R24, R26, R70). -/
abbrev Word := BitVec 16

/-- The 12-bit address immediate NNN (R71). -/
abbrev Addr := BitVec 12

/-- The number of a general register: a field X or Y (R20, R71). -/
abbrev RegIdx := Fin 16

/-- The 4-bit count N, a sprite's height (R71, R72). -/
abbrev Count := Fin 16

/-- A logical key, 0x0 to 0xF (R32). -/
abbrev Key := Fin 16

end Sys2Proof
end

