-- ==== Sys2Proof/Config.lean ====
section
/-!
DEFINITION. The implementation parameters of `00_scope.md` R6 at the values the spec gives them, and the free
value of the model. The sizes R6 fixes for the registers, the stack, the display and the keys are the types of
`State` (`Machine/State.lean`). An `opaque` constant has no body, so a claim about it holds for every value.
-/

namespace Sys2Proof.Config

/-- `MEM_SIZE` (R6): addresses 0x000 to 0xFFF. -/
abbrev memSize : Nat := 4096

/-- `PROG_BASE` (R6): the entry point and the first byte of a loaded program. -/
abbrev progBase : Nat := 0x200

/-- `PROG_MAX` (R6, `90_conflicts.md` C1): the longest program `load` takes, in bytes. -/
abbrev progMax : Nat := 3584

/-- `FONT_BASE` (R6, decision D13): a parameter at its default. DESIGN CHOICE of the spec, log entry 6. -/
def fontBase : Nat := 0x050

/-- `FONT_GLYPHS` (R34, decision D13): 16 glyphs of 5 bytes, top row first, a parameter at its default.
PRESUMED: the bytes are the family's standard font (`93_implementation_defined.md` G4), log entry 5. -/
def fontGlyphs : List Byte :=
  [0xF0, 0x90, 0x90, 0x90, 0xF0] ++ [0x20, 0x60, 0x20, 0x20, 0x70] ++
  [0xF0, 0x10, 0xF0, 0x80, 0xF0] ++ [0xF0, 0x10, 0xF0, 0x10, 0xF0] ++
  [0x90, 0x90, 0xF0, 0x10, 0x10] ++ [0xF0, 0x80, 0xF0, 0x10, 0xF0] ++
  [0xF0, 0x80, 0xF0, 0x90, 0xF0] ++ [0xF0, 0x10, 0x20, 0x40, 0x40] ++
  [0xF0, 0x90, 0xF0, 0x90, 0xF0] ++ [0xF0, 0x90, 0xF0, 0x10, 0xF0] ++
  [0xF0, 0x90, 0xF0, 0x90, 0x90] ++ [0xE0, 0x90, 0xE0, 0x90, 0xE0] ++
  [0xF0, 0x80, 0x80, 0x80, 0xF0] ++ [0xE0, 0x90, 0x90, 0x90, 0xE0] ++
  [0xF0, 0x80, 0xF0, 0x80, 0xF0] ++ [0xF0, 0x80, 0xF0, 0x80, 0x80]

/-- The register a shift reads (decision D9). -/
inductive ShiftSrc where
  | x
  | y
  deriving DecidableEq, Repr

/-- `SHIFT_SRC` (R6, decision D9): a parameter at its default, register X. Log entry 6. -/
def shiftSrc : ShiftSrc := .x

/-- `STRICT_DECODE` (R6, decision D6): a parameter at its default, 5XYN and 9XYN with N ≠ 0 are Unknown.
Log entry 6. -/
def strictDecode : Bool := true

/-- `INSTR_RATE` (R6, R252, decision D31): open, a parameter of the host that no rule reads. Log entry 11. -/
opaque instrRate : Nat

/-- The random byte of the n-th execution of RND (R142, R226): a free value under no law. Log entry 1. -/
opaque rnd : Nat → Byte

end Sys2Proof.Config
end

