-- ==== Sys2Proof/Syntax.lean ====
section
/-!
DEFINITION. The 35 instructions of `30_encoding.md` R76, one constructor per row of `opcode_table.json`, in the
table's order.
-/

namespace Sys2Proof

/-- An instruction with its operand fields (R71, R76). The shifts keep their Y field, which the word holds and the
rule ignores at `SHIFT_SRC` = X (R131, R132). -/
inductive Instr where
  /-- SYS NNN, R100 -/
  | sys (nnn : Addr)
  /-- CLS, R101 -/
  | cls
  /-- RET, R102 -/
  | ret
  /-- JP NNN, R103 -/
  | jp (nnn : Addr)
  /-- CALL NNN, R104 -/
  | call (nnn : Addr)
  /-- SE VX, KK, R105 -/
  | seImm (x : RegIdx) (kk : Byte)
  /-- SNE VX, KK, R106 -/
  | sneImm (x : RegIdx) (kk : Byte)
  /-- SE VX, VY, R107 -/
  | seReg (x y : RegIdx)
  /-- SNE VX, VY, R108 -/
  | sneReg (x y : RegIdx)
  /-- LD VX, KK, R122 -/
  | ldImm (x : RegIdx) (kk : Byte)
  /-- ADD VX, KK, R123 -/
  | addImm (x : RegIdx) (kk : Byte)
  /-- LD VX, VY, R124 -/
  | ldReg (x y : RegIdx)
  /-- OR VX, VY, R125 -/
  | orReg (x y : RegIdx)
  /-- AND VX, VY, R126 -/
  | andReg (x y : RegIdx)
  /-- XOR VX, VY, R127 -/
  | xorReg (x y : RegIdx)
  /-- ADD VX, VY, R128 -/
  | addReg (x y : RegIdx)
  /-- SUB VX, VY, R129 -/
  | subReg (x y : RegIdx)
  /-- SUBN VX, VY, R130 -/
  | subnReg (x y : RegIdx)
  /-- SHR VX, R131 -/
  | shr (x y : RegIdx)
  /-- SHL VX, R132 -/
  | shl (x y : RegIdx)
  /-- LD I, NNN, R140 -/
  | ldI (nnn : Addr)
  /-- JP V0, NNN, R141 -/
  | jpV0 (nnn : Addr)
  /-- RND VX, KK, R142 -/
  | rnd (x : RegIdx) (kk : Byte)
  /-- DRW VX, VY, N, R144 -/
  | drw (x y : RegIdx) (n : Count)
  /-- SKP VX, R160 -/
  | skp (x : RegIdx)
  /-- SKNP VX, R161 -/
  | sknp (x : RegIdx)
  /-- LD VX, DT, R164 -/
  | ldVxDt (x : RegIdx)
  /-- LD VX, K, R165 -/
  | ldVxK (x : RegIdx)
  /-- LD DT, VX, R166 -/
  | ldDtVx (x : RegIdx)
  /-- LD ST, VX, R167 -/
  | ldStVx (x : RegIdx)
  /-- ADD I, VX, R168 -/
  | addI (x : RegIdx)
  /-- LD F, VX, R169 -/
  | ldF (x : RegIdx)
  /-- LD B, VX, R170 -/
  | ldB (x : RegIdx)
  /-- LD [I], VX, R171 -/
  | ldMemVx (x : RegIdx)
  /-- LD VX, [I], R172 -/
  | ldVxMem (x : RegIdx)
  deriving DecidableEq, Repr

end Sys2Proof
end

