-- ==== Sys2Proof/WellFormed.lean ====
section
/-!
DEFINITION. Which terms of `Instr` are instructions of the opcode map. The operand types already hold every field to
its width (R71); the one relation left is that rows 2 and 3 of R76 take precedence over row 1.
-/

namespace Sys2Proof

/-- Row 1 of R76 is 0NNN with NNN neither 0x0E0 (CLS) nor 0x0EE (RET); every other term is an instruction. -/
def Instr.wellFormed : Instr → Bool
  | .sys nnn => nnn != 0x0E0 && nnn != 0x0EE
  | .cls | .ret | .jp _ | .call _ => true
  | .seImm _ _ | .sneImm _ _ | .seReg _ _ | .sneReg _ _ => true
  | .ldImm _ _ | .addImm _ _ | .ldReg _ _ | .orReg _ _ | .andReg _ _ | .xorReg _ _ => true
  | .addReg _ _ | .subReg _ _ | .subnReg _ _ | .shr _ _ | .shl _ _ => true
  | .ldI _ | .jpV0 _ | .rnd _ _ | .drw _ _ _ => true
  | .skp _ | .sknp _ | .ldVxDt _ | .ldVxK _ | .ldDtVx _ | .ldStVx _ => true
  | .addI _ | .ldF _ | .ldB _ | .ldMemVx _ | .ldVxMem _ => true

end Sys2Proof
end

