-- ==== Sys2Proof/Decode.lean ====
section
/-!
DEFINITION. The decoder of `30_encoding.md` R75, total on every 16-bit word, and the encoder from the patterns of
R76. The bit patterns are the family's (`93_implementation_defined.md` G1, PRESUMED, log entry 5).
-/

namespace Sys2Proof

/-- The verdict of R75: one of the 35 instructions, or `Unknown`. -/
inductive Decoded where
  | instr (i : Instr)
  | unknown
  deriving DecidableEq, Repr

/-! ### Fields of a word (R71) -/

/-- `op` = w[15:12]. -/
def fieldOp (w : Word) : BitVec 4 := w.extractLsb' 12 4
/-- X = w[11:8]. -/
def fieldX (w : Word) : RegIdx := (w.extractLsb' 8 4).toFin
/-- Y = w[7:4]. -/
def fieldY (w : Word) : RegIdx := (w.extractLsb' 4 4).toFin
/-- N = w[3:0]. -/
def fieldN (w : Word) : Count := (w.extractLsb' 0 4).toFin
/-- KK = w[7:0]. -/
def fieldKK (w : Word) : Byte := w.extractLsb' 0 8
/-- NNN = w[11:0]. -/
def fieldNNN (w : Word) : Addr := w.extractLsb' 0 12

/-! ### Decoder (R75) -/

/-- Family 0: the two fixed words first, every other word is SYS. -/
def decodeSys (w : Word) : Decoded :=
  if w = 0x00E0 then .instr .cls
  else if w = 0x00EE then .instr .ret
  else .instr (.sys (fieldNNN w))

/-- Families 5 and 9: the low nibble must be 0 under `STRICT_DECODE`. -/
def decodeStrict (n : Count) (i : Instr) : Decoded :=
  if n = 0 ∨ Config.strictDecode = false then .instr i else .unknown

/-- Family 8, on the low nibble. -/
def decodeAlu (n : Count) (x y : RegIdx) : Decoded :=
  match n with
  | 0x0 => .instr (.ldReg x y)
  | 0x1 => .instr (.orReg x y)
  | 0x2 => .instr (.andReg x y)
  | 0x3 => .instr (.xorReg x y)
  | 0x4 => .instr (.addReg x y)
  | 0x5 => .instr (.subReg x y)
  | 0x6 => .instr (.shr x y)
  | 0x7 => .instr (.subnReg x y)
  | 0xE => .instr (.shl x y)
  | _ => .unknown

/-- Family E, on the low byte. -/
def decodeKey (kk : Byte) (x : RegIdx) : Decoded :=
  if kk = 0x9E then .instr (.skp x)
  else if kk = 0xA1 then .instr (.sknp x)
  else .unknown

/-- Family F, on the low byte. -/
def decodeMisc (kk : Byte) (x : RegIdx) : Decoded :=
  if kk = 0x07 then .instr (.ldVxDt x)
  else if kk = 0x0A then .instr (.ldVxK x)
  else if kk = 0x15 then .instr (.ldDtVx x)
  else if kk = 0x18 then .instr (.ldStVx x)
  else if kk = 0x1E then .instr (.addI x)
  else if kk = 0x29 then .instr (.ldF x)
  else if kk = 0x33 then .instr (.ldB x)
  else if kk = 0x55 then .instr (.ldMemVx x)
  else if kk = 0x65 then .instr (.ldVxMem x)
  else .unknown

/-- Decode a word on its top nibble (R75). It reads nothing but the word (R78); the last case is family F. -/
def decode (w : Word) : Decoded :=
  match fieldOp w with
  | 0x0 => decodeSys w
  | 0x1 => .instr (.jp (fieldNNN w))
  | 0x2 => .instr (.call (fieldNNN w))
  | 0x3 => .instr (.seImm (fieldX w) (fieldKK w))
  | 0x4 => .instr (.sneImm (fieldX w) (fieldKK w))
  | 0x5 => decodeStrict (fieldN w) (.seReg (fieldX w) (fieldY w))
  | 0x6 => .instr (.ldImm (fieldX w) (fieldKK w))
  | 0x7 => .instr (.addImm (fieldX w) (fieldKK w))
  | 0x8 => decodeAlu (fieldN w) (fieldX w) (fieldY w)
  | 0x9 => decodeStrict (fieldN w) (.sneReg (fieldX w) (fieldY w))
  | 0xA => .instr (.ldI (fieldNNN w))
  | 0xB => .instr (.jpV0 (fieldNNN w))
  | 0xC => .instr (.rnd (fieldX w) (fieldKK w))
  | 0xD => .instr (.drw (fieldX w) (fieldY w) (fieldN w))
  | 0xE => decodeKey (fieldKK w) (fieldX w)
  | _ => decodeMisc (fieldKK w) (fieldX w)

/-- The word of the byte at PC and the byte at PC + 1: big-endian (R55, R73). -/
def wordOfBytes (hi lo : Byte) : Word := hi ++ lo

/-- The high byte of a word, stored at the lower address (R55). -/
def hiByte (w : Word) : Byte := w.extractLsb' 8 8
/-- The low byte of a word. -/
def loByte (w : Word) : Byte := w.extractLsb' 0 8

/-- Decode an instruction from its two bytes, the first at the lower address. -/
def decodeBytes (b0 b1 : Byte) : Decoded := decode (wordOfBytes b0 b1)

/-- The word of a table row: `w` cut to `nbits` bits, bit 0 the least significant. -/
def tableWord (nbits w : Nat) : Word := BitVec.ofNat 16 (w % 2 ^ nbits)

/-- What the decoder reads from a word numbered as `opcode_table.json` numbers it: its two bytes are laid out
big-endian (R55) and decoded. -/
def decodeTableWord (nbits w : Nat) : Option Instr :=
  match decodeBytes (hiByte (tableWord nbits w)) (loByte (tableWord nbits w)) with
  | .instr i => some i
  | .unknown => none

/-! ### Encoder (the formats of R71, the patterns of R76) -/

/-- Format `A`: op NNN. -/
def packA (op : BitVec 4) (nnn : Addr) : Word := op ++ nnn
/-- Formats `XK` and `XS`: op X KK. -/
def packXK (op : BitVec 4) (x : RegIdx) (kk : Byte) : Word := op ++ (BitVec.ofFin (w := 4) x ++ kk)
/-- Formats `XY` and `XYN`: op X Y N. -/
def packXYN (op : BitVec 4) (x y : RegIdx) (n : Count) : Word :=
  op ++ (BitVec.ofFin (w := 4) x ++ (BitVec.ofFin (w := 4) y ++ BitVec.ofFin (w := 4) n))

/-- The word of an instruction (R76). -/
def encode : Instr → Word
  | .sys nnn => packA 0x0 nnn
  | .cls => 0x00E0
  | .ret => 0x00EE
  | .jp nnn => packA 0x1 nnn
  | .call nnn => packA 0x2 nnn
  | .seImm x kk => packXK 0x3 x kk
  | .sneImm x kk => packXK 0x4 x kk
  | .seReg x y => packXYN 0x5 x y 0x0
  | .sneReg x y => packXYN 0x9 x y 0x0
  | .ldImm x kk => packXK 0x6 x kk
  | .addImm x kk => packXK 0x7 x kk
  | .ldReg x y => packXYN 0x8 x y 0x0
  | .orReg x y => packXYN 0x8 x y 0x1
  | .andReg x y => packXYN 0x8 x y 0x2
  | .xorReg x y => packXYN 0x8 x y 0x3
  | .addReg x y => packXYN 0x8 x y 0x4
  | .subReg x y => packXYN 0x8 x y 0x5
  | .subnReg x y => packXYN 0x8 x y 0x7
  | .shr x y => packXYN 0x8 x y 0x6
  | .shl x y => packXYN 0x8 x y 0xE
  | .ldI nnn => packA 0xA nnn
  | .jpV0 nnn => packA 0xB nnn
  | .rnd x kk => packXK 0xC x kk
  | .drw x y n => packXYN 0xD x y n
  | .skp x => packXK 0xE x 0x9E
  | .sknp x => packXK 0xE x 0xA1
  | .ldVxDt x => packXK 0xF x 0x07
  | .ldVxK x => packXK 0xF x 0x0A
  | .ldDtVx x => packXK 0xF x 0x15
  | .ldStVx x => packXK 0xF x 0x18
  | .addI x => packXK 0xF x 0x1E
  | .ldF x => packXK 0xF x 0x29
  | .ldB x => packXK 0xF x 0x33
  | .ldMemVx x => packXK 0xF x 0x55
  | .ldVxMem x => packXK 0xF x 0x65

end Sys2Proof
end

