-- ==== Sys2Proof/Machine/State.lean ====
section
/-!
DEFINITION. The whole state of the core (`10_state.md` R20-R39) as plain data, its outputs (R227, R228, R231), the
reasons a step could stop, and the state after reset (R39, R240).
-/

namespace Sys2Proof.Machine

open Sys2Proof

/-- The error causes of R200. -/
inductive Cause where
  | unknownOpcode
  | stackOverflow
  | stackUnderflow
  | badTarget
  | memRange
  | fetchRange
  | keyRange
  deriving DecidableEq, Repr

/-- The outputs a transaction can emit into the trace (R227). -/
inductive Event where
  /-- `ErrorEvent(cause, pc, word)` of R228; the word is absent for `FETCH_RANGE`. -/
  | error (cause : Cause) (pc : Word) (word : Option Word)
  /-- `Tone` of R231. -/
  | tone
  deriving DecidableEq, Repr

/-- The display buffer (R30): `disp[y][x]`, 32 rows of 64 pixels, `true` for 1. -/
abbrev Display := Vector (Vector Bool 64) 32

/-- Memory (R33, R50) as the bytes that differ from their reset contents: addresses strictly rising, and no entry
equal to what an unlisted address reads as (`Memory.wf` in Ops.lean). Log entry 4. -/
abbrev Memory := List Host.Cell

/-- The state of R39, and two fields of the model's own. -/
structure State where
  /-- `x[0..15]` (R20); register 0xF is the flag register (R21). -/
  regs : Vector Byte 16
  /-- `I` (R24). -/
  index : Word
  /-- `PC` (R22). -/
  pc : Word
  /-- `SP`, the number of active calls, 0 to 16 (R25). -/
  sp : Fin 17
  /-- `stack[0..15]` (R26). -/
  stack : Vector Word 16
  /-- `DT` (R28). -/
  dt : Byte
  /-- `ST` (R29). -/
  st : Byte
  /-- `disp` (R30). -/
  disp : Display
  /-- `dirty` (R31). -/
  dirty : Bool
  /-- `key[0..15]` (R32). -/
  keys : Vector Bool 16
  /-- `mem[0x000..0xFFF]` (R33). -/
  mem : Memory
  /-- `ERR` (R35). -/
  err : BitVec 8
  /-- The MODEL's own field: the outputs so far, newest first (R201, R227, R231). Log entry 2. -/
  events : List Event
  /-- The MODEL's own field: how many random bytes RND has taken; the next is the free value
  `Config.rnd draws` (R226). Log entry 1. -/
  draws : Nat
  deriving DecidableEq, Repr

/-- A step stops with a fault for no reason at all: every error of R200 is a next state (R201), and every access is
checked before it is made (R53). The type is empty, so nobody raises it; that is safe. Log entry 12. -/
inductive Fault where
  deriving DecidableEq, Repr

/-- Why the model gives no transition. -/
inductive Refusal where
  /-- An instruction without a meaning yet, rejected by name in `exec`'s arm; raised by no arm now. Safe: nothing
  can be proved of the refused instruction's effect. -/
  | notModelled (mnemonic : String)
  /-- A transaction other than `reset` before the first reset (R38, decision D30: no transition is defined on an
  unreset core). Raised by `transact` only, never by a step. Safe: the model stops where the spec defines nothing. -/
  | beforeReset
  deriving DecidableEq, Repr

/-- The state right after reset (R39, R240). Memory lists nothing: every address reads as its reset contents. The
two model's own fields start empty and 0 (DESIGN CHOICE, log entries 1 and 2). -/
def State.reset : State where
  regs := Vector.replicate 16 0
  index := 0
  pc := 0x200
  sp := 0
  stack := Vector.replicate 16 0
  dt := 0
  st := 0
  disp := Vector.replicate 32 (Vector.replicate 64 false)
  dirty := false
  keys := Vector.replicate 16 false
  mem := []
  err := 0
  events := []
  draws := 0

end Sys2Proof.Machine
end

