-- ==== Sys2Proof/Machine/Ops.lean ====
section
/-!
DEFINITION. The named operations over memory, registers, stack, keys and PC, the error action of `60_exceptions.md`
R201 as one shared operation (the core has no other exception entry and no return from one, R211), and fetch.
-/

namespace Sys2Proof.Machine

open Sys2Proof

/-- What a step answers. -/
abbrev Answer := Host.Outcome State Fault Refusal

/-! ### Memory (R33, R50, R53, R57) -/

/-- What an address holds after reset (R33, R34): the font at `FONT_BASE`, 0 everywhere else. -/
def Memory.resetByte (a : Nat) : Byte :=
  if Config.fontBase ≤ a then Config.fontGlyphs.getD (a - Config.fontBase) 0 else 0

/-- `MemRead(a, 1)` (R8). -/
def Memory.read : Memory → Nat → Byte
  | [], a => Memory.resetByte a
  | c :: m, a => if a = c.1 then c.2 else Memory.read m a

/-- Memory without an entry for `a`. -/
def Memory.forget (m : Memory) (a : Nat) : Memory := m.filter fun c => c.1 != a

/-- Memory with an entry for `a` put before the first higher address. -/
def Memory.place : Memory → Nat → Byte → Memory
  | [], a, v => [(a, v)]
  | c :: m, a, v => if a < c.1 then (a, v) :: c :: m else c :: Memory.place m a v

/-- `MemWrite(a, 1, v)` (R8). Writing what an unlisted address reads as removes the entry. -/
def Memory.write (m : Memory) (a : Nat) (v : Byte) : Memory :=
  if v = Memory.resetByte a then m.forget a else (m.forget a).place a v

/-- The bytes at `a`, `a + 1`, …, in ascending order (R54). -/
def Memory.readBytes (m : Memory) (a n : Nat) : List Byte := (List.range n).map fun k => m.read (a + k)

/-- Store bytes at `a`, `a + 1`, …, in ascending order (R54). -/
def Memory.writeBytes : Memory → Nat → List Byte → Memory
  | m, _, [] => m
  | m, a, v :: vs => Memory.writeBytes (m.write a v) (a + 1) vs

/-- The canonical form: addresses of the space of R50, strictly rising, no entry equal to the reset contents. -/
abbrev Memory.wf (m : Memory) : Prop :=
  m.Pairwise (fun c d => c.1 < d.1) ∧ ∀ c ∈ m, c.1 < Config.memSize ∧ c.2 ≠ Memory.resetByte c.1

/-- The state with a new memory. -/
def State.setMem (s : State) (m : Memory) : State := { s with mem := m }

/-! ### Registers (R20, R21) -/

/-- `x[r]`. -/
def State.reg (s : State) (r : RegIdx) : Byte := s.regs[r]

/-- `x[r] <- v`. -/
def State.setReg (s : State) (r : RegIdx) (v : Byte) : State := { s with regs := s.regs.set r v }

/-- A flag as the value of register 0xF: 0 or 1 (R21). -/
def flagByte (b : Bool) : Byte := if b then 1 else 0

/-- `x[0xF] <- flag`, written after the result (R9, R21). -/
def State.setFlag (s : State) (b : Bool) : State := s.setReg 0xF (flagByte b)

/-- `I <- v`. -/
def State.setIndex (s : State) (v : Word) : State := { s with index := v }

/-- The registers in ascending order. -/
def allRegs : List RegIdx := [0, 1, 2, 3, 4, 5, 6, 7, 8, 9, 10, 11, 12, 13, 14, 15]

/-- Registers 0 to X, the ones a block transfer moves (R171, R172). -/
def regsUpTo (x : RegIdx) : List RegIdx := allRegs.filter fun r => r ≤ x

/-- Load registers 0 to X from the bytes at `a` (R172). -/
def State.loadRegs (s : State) (a : Nat) (x : RegIdx) : State :=
  (regsUpTo x).foldl (fun t r => t.setReg r (s.mem.read (a + r.val))) s

/-- The values of registers 0 to X (R171). -/
def State.regBlock (s : State) (x : RegIdx) : List Byte := (regsUpTo x).map s.reg

/-! ### Program counter (R10, R22, R23) -/

/-- `pc <- v`. -/
def State.setPc (s : State) (v : Word) : State := { s with pc := v }

/-- Advance PC by 2 (R10). -/
def State.advance (s : State) : State := s.setPc (s.pc + 2)

/-- PC + 4 if the condition holds, else PC + 2 (R23). -/
def State.skipIf (s : State) (c : Bool) : State := s.setPc (if c then s.pc + 4 else s.pc + 2)

/-! ### Call stack (R25-R27) -/

/-- `stack[k]` as a state entry. -/
def State.stackEntry (s : State) (k : Fin 16) : Word := s.stack[k]

/-- `push(a)` of R27, defined when SP < 16. -/
def State.push (s : State) (a : Word) (h : s.sp.val < 16) : State :=
  { s with stack := s.stack.set s.sp.val a, sp := ⟨s.sp.val + 1, by omega⟩ }

/-- The entry `pop()` of R27 returns, defined when SP > 0. -/
def State.top (s : State) (h : 0 < s.sp.val) : Word := s.stack[s.sp.val - 1]'(by omega)

/-- SP after `pop()` of R27; the entry keeps its value (R26). -/
def State.pop (s : State) : State := { s with sp := ⟨s.sp.val - 1, by omega⟩ }

/-! ### Keys (R32, R163) -/

/-- `key[k]`. -/
def State.key (s : State) (k : Key) : Bool := s.keys[k]

/-- The least pressed key (R163). -/
def State.leastKey (s : State) : Option Key := allRegs.find? s.key

/-! ### Display (R30) -/

/-- `disp[row][col]`. -/
def Display.pixel (d : Display) (col : Fin 64) (row : Fin 32) : Bool := d[row][col]

/-- A pixel XORed with 1. -/
def Display.toggle (d : Display) (col : Fin 64) (row : Fin 32) : Display :=
  d.set row (d[row].set col (!d[row][col]))

/-- The buffer with every pixel 0. -/
def Display.blank : Display := Vector.replicate 32 (Vector.replicate 64 false)

/-- A new display buffer and dirty flag. -/
def State.setDisplay (s : State) (d : Display) (dirty : Bool) : State := { s with disp := d, dirty := dirty }

/-! ### Timers (R28, R29) -/

/-- `DT <- v`. -/
def State.setDt (s : State) (v : Byte) : State := { s with dt := v }

/-- `ST <- v`. -/
def State.setSt (s : State) (v : Byte) : State := { s with st := v }

/-! ### Random input (R226) -/

/-- The random byte this execution of RND takes: a free value. Log entry 1. -/
def State.randomByte (s : State) : Byte := Config.rnd s.draws

/-- The next execution of RND takes a fresh byte. -/
def State.nextDraw (s : State) : State := { s with draws := s.draws + 1 }

/-! ### Errors (R200, R201, R228, R35) -/

/-- The numeric code of a cause (R200). -/
def Cause.code : Cause → Nat
  | .unknownOpcode => 1
  | .stackOverflow => 2
  | .stackUnderflow => 3
  | .badTarget => 4
  | .memRange => 5
  | .fetchRange => 6
  | .keyRange => 7

/-- The `ERR` bit of a cause: its code less 1 (R35, R200). -/
def Cause.bit (c : Cause) : Nat := c.code - 1

/-- `ERR` with the cause's bit set; the others keep their value (R35, R201). -/
def latch (err : BitVec 8) (c : Cause) : BitVec 8 := err ||| (1 <<< c.bit)

/-- `ERR <- v`. -/
def State.setErr (s : State) (v : BitVec 8) : State := { s with err := v }

/-- Emit an output. -/
def State.emit (s : State) (e : Event) : State := { s with events := e :: s.events }

/-- THE error action of R201: latch the cause's bit, output the event with PC and the word, advance PC by 2, or leave
PC for `FETCH_RANGE`. Nothing else changes. -/
def raise (c : Cause) (w : Option Word) (s : State) : State :=
  let t := (s.setErr (latch s.err c)).emit (.error c s.pc w)
  match c with
  | .fetchRange => t
  | _ => t.advance

/-- `raise Error(c)` inside the instruction `i` (R8): the word in the event is the instruction's own. -/
def raiseIn (c : Cause) (i : Instr) (s : State) : Answer := .next (raise c (some (encode i)) s)

/-! ### Fetch (R73, R74) -/

/-- PC is in 0x200 to 0xFFE (R74). -/
def State.fetchOk (s : State) : Bool := 0x200 ≤ s.pc.toNat && s.pc.toNat ≤ 0xFFE

/-- The word at PC, big-endian (R73), or `none` where R74 refuses the fetch. -/
def State.fetch (s : State) : Option Word :=
  if s.fetchOk then some (wordOfBytes (s.mem.read s.pc.toNat) (s.mem.read (s.pc.toNat + 1))) else none

/-- Store a word where a fetch at `a` reads it: the high byte first (R55). -/
def State.storeWord (s : State) (a : Nat) (w : Word) : State :=
  s.setMem (s.mem.writeBytes a [hiByte w, loByte w])

end Sys2Proof.Machine
end

