-- ==== Sys2Proof/Machine/Operands.lean ====
section
/-!
DEFINITION. The operand forms: immediates and their zero extension (`30_encoding.md` R72), jump targets, I-relative
addresses and their exact range check (`20_memory.md` R53), key indices, and the register a shift reads.
-/

namespace Sys2Proof.Machine

open Sys2Proof

/-- NNN written to PC or I: zero-extended to 16 bits (R72). -/
def zextAddr (nnn : Addr) : Word := nnn.setWidth 16

/-- A target of a control transfer is legal in 0x200 to 0xFFF (R205). -/
def targetOk (t : Nat) : Bool := 0x200 ≤ t && t ≤ 0xFFF

/-- The exact target of JP V0, NNN: `x[0] + NNN`, never truncated (R141). -/
def State.offsetTarget (s : State) (nnn : Addr) : Nat := (s.reg 0).toNat + nnn.toNat

/-- The exact address `I + off` (R53). -/
def State.indexed (s : State) (off : Nat) : Nat := s.index.toNat + off

/-- The access reaching up to `I + last` stays in memory: the exact sum is at most 0xFFF (R53, R206). -/
def State.reachOk (s : State) (last : Nat) : Bool := s.indexed last ≤ 0xFFF

/-- The key a register value names, or `none` above 0xF (R162). -/
def keyOf (v : Byte) : Option Key := if h : v.toNat < 16 then some ⟨v.toNat, h⟩ else none

/-- The value a shift reads, by `SHIFT_SRC` (R131, R132, decision D9). -/
def State.shiftSource (s : State) (x y : RegIdx) : Byte :=
  match Config.shiftSrc with
  | .x => s.reg x
  | .y => s.reg y

/-- The address of the glyph for the low nibble of a register value (R169). -/
def glyphAddr (v : Byte) : Word := BitVec.ofNat 16 (Config.fontBase + v.toNat % 16 * 5)

/-- The three BCD digits, hundreds first (R170). -/
def bcd (v : Byte) : List Byte :=
  [BitVec.ofNat 8 (v.toNat / 100), BitVec.ofNat 8 (v.toNat / 10 % 10), BitVec.ofNat 8 (v.toNat % 10)]

end Sys2Proof.Machine
end

