-- ==== Sys2Proof/Machine/Flags.lean ====
section
/-!
DEFINITION. The results and flags of the arithmetic (`41_alu.md` R120, R121, `43_keys_timers_memory.md` R168):
computed exactly on integers, then narrowed to the destination's width.
-/

namespace Sys2Proof.Machine

open Sys2Proof

/-- A result and the flag written to register 0xF after it. -/
structure Flagged (w : Nat) where
  value : BitVec w
  flag : Bool
  deriving DecidableEq, Repr

/-- Sum mod 256 and the carry: the exact sum is above 255 (R128). -/
def addCarry (a b : Byte) : Flagged 8 :=
  { value := BitVec.ofNat 8 (a.toNat + b.toNat), flag := decide (255 < a.toNat + b.toNat) }

/-- Difference mod 256 and NOT borrow: `a ≥ b` (R129, R130). -/
def subNotBorrow (a b : Byte) : Flagged 8 :=
  { value := BitVec.ofInt 8 ((a.toNat : Int) - (b.toNat : Int)), flag := decide (b.toNat ≤ a.toNat) }

/-- `v div 2` and bit 0 before the shift (R131). -/
def shiftRight (v : Byte) : Flagged 8 :=
  { value := BitVec.ofNat 8 (v.toNat / 2), flag := v.getLsbD 0 }

/-- `(v * 2) mod 256` and bit 7 before the shift (R132). -/
def shiftLeft (v : Byte) : Flagged 8 :=
  { value := BitVec.ofNat 8 (v.toNat * 2), flag := v.getLsbD 7 }

/-- `I + x[X]` mod 2^16 and whether the exact sum is above 0xFFF (R168). -/
def indexAdd (i : Word) (v : Byte) : Flagged 16 :=
  { value := BitVec.ofNat 16 (i.toNat + v.toNat), flag := decide (0xFFF < i.toNat + v.toNat) }

/-- The result to register X, then the flag to register 0xF (R9), then PC + 2. -/
def State.finishFlagged (s : State) (x : RegIdx) (r : Flagged 8) : State :=
  ((s.setReg x r.value).setFlag r.flag).advance

end Sys2Proof.Machine
end

