-- ==== Sys2Proof/Machine/Alu.lean ====
section
/-!
DEFINITION. Register load and 8-bit ALU instructions (`41_alu.md`), with RND (`42_index_random_draw.md` R142).
-/

namespace Sys2Proof.Machine

open Sys2Proof

/-- A result to register X, no flag, PC + 2. -/
def State.finish (s : State) (x : RegIdx) (v : Byte) : State := (s.setReg x v).advance

/-- LD VX, KK (R122). -/
def execLdImm (x : RegIdx) (kk : Byte) (s : State) : Answer := .next (s.finish x kk)

/-- ADD VX, KK (R123): the sum mod 256, no flag. -/
def execAddImm (x : RegIdx) (kk : Byte) (s : State) : Answer :=
  .next (s.finish x (addCarry (s.reg x) kk).value)

/-- LD VX, VY (R124). -/
def execLdReg (x y : RegIdx) (s : State) : Answer := .next (s.finish x (s.reg y))

/-- OR VX, VY (R125). -/
def execOrReg (x y : RegIdx) (s : State) : Answer := .next (s.finish x (s.reg x ||| s.reg y))

/-- AND VX, VY (R126). -/
def execAndReg (x y : RegIdx) (s : State) : Answer := .next (s.finish x (s.reg x &&& s.reg y))

/-- XOR VX, VY (R127). -/
def execXorReg (x y : RegIdx) (s : State) : Answer := .next (s.finish x (s.reg x ^^^ s.reg y))

/-- ADD VX, VY (R128): flag = carry. -/
def execAddReg (x y : RegIdx) (s : State) : Answer :=
  .next (s.finishFlagged x (addCarry (s.reg x) (s.reg y)))

/-- SUB VX, VY (R129): X - Y, flag = NOT borrow. -/
def execSubReg (x y : RegIdx) (s : State) : Answer :=
  .next (s.finishFlagged x (subNotBorrow (s.reg x) (s.reg y)))

/-- SUBN VX, VY (R130): Y - X, flag = NOT borrow. -/
def execSubnReg (x y : RegIdx) (s : State) : Answer :=
  .next (s.finishFlagged x (subNotBorrow (s.reg y) (s.reg x)))

/-- SHR VX (R131): Y is read only if `SHIFT_SRC` says so. -/
def execShr (x y : RegIdx) (s : State) : Answer :=
  .next (s.finishFlagged x (shiftRight (s.shiftSource x y)))

/-- SHL VX (R132). -/
def execShl (x y : RegIdx) (s : State) : Answer :=
  .next (s.finishFlagged x (shiftLeft (s.shiftSource x y)))

/-- RND VX, KK with a given random byte (R142). -/
def State.withRandom (s : State) (rnd : Byte) (x : RegIdx) (kk : Byte) : State := s.finish x (rnd &&& kk)

/-- RND VX, KK (R142): the random byte is a free value (R226, log entry 1). -/
def execRnd (x : RegIdx) (kk : Byte) (s : State) : Answer :=
  .next (s.nextDraw.withRandom s.randomByte x kk)

end Sys2Proof.Machine
end

