-- ==== Sys2Proof/Machine/Sprite.lean ====
section
/-!
DEFINITION. Sprite geometry and the drawing loop of `42_index_random_draw.md` R143, R144.
-/

namespace Sys2Proof.Machine

open Sys2Proof

/-- The display while a sprite is drawn, with `collide` and `changed` of R144. -/
structure Drawing where
  disp : Display
  collide : Bool
  changed : Bool
  deriving DecidableEq, Repr

/-- One set bit landing on (col, row): dropped outside the display, else the pixel is XORed with 1 (R143, R144). -/
def Drawing.plot (d : Drawing) (col row : Nat) : Drawing :=
  if h : col < 64 ∧ row < 32 then
    { disp := d.disp.toggle ⟨col, h.1⟩ ⟨row, h.2⟩
      collide := d.collide || d.disp.pixel ⟨col, h.1⟩ ⟨row, h.2⟩
      changed := true }
  else d

/-- Pixel c of a sprite row is bit 7 - c of its byte (R143); a zero bit changes nothing (R144). -/
def Drawing.plotBit (b : Byte) (x0 row : Nat) (d : Drawing) (c : Nat) : Drawing :=
  if b.getLsbD (7 - c) then d.plot (x0 + c) row else d

/-- The eight pixels of one sprite row, left to right. -/
def Drawing.plotRow (d : Drawing) (b : Byte) (x0 row : Nat) : Drawing :=
  (List.range 8).foldl (Drawing.plotBit b x0 row) d

/-- The rows of a sprite, top to bottom, the first on display row `row`. -/
def Drawing.plotRows : Drawing → List Byte → Nat → Nat → Drawing
  | d, [], _, _ => d
  | d, b :: bs, x0, row => Drawing.plotRows (d.plotRow b x0 row) bs x0 (row + 1)

/-- Draw a sprite's rows at (x0, y0) on a display (R144). -/
def drawSprite (disp : Display) (rows : List Byte) (x0 y0 : Nat) : Drawing :=
  Drawing.plotRows { disp := disp, collide := false, changed := false } rows x0 y0

end Sys2Proof.Machine
end

