-- ==== Sys2Proof/Machine/Draw.lean ====
section
/-!
DEFINITION. DRW, and its checks and writes around the drawing loop (`42_index_random_draw.md` R144).
-/

namespace Sys2Proof.Machine

open Sys2Proof

/-- The range check of DRW: none with N = 0, else `I + N - 1` at most 0xFFF, exact (R144, R206). -/
def State.spriteOk (s : State) (n : Count) : Bool := n == 0 || s.reachOk (n.val - 1)

/-- The drawing of the N rows at I on column x[X], row x[Y] (R144). -/
def State.drawing (s : State) (x y : RegIdx) (n : Count) : Drawing :=
  drawSprite s.disp (s.mem.readBytes s.index.toNat n.val) (s.reg x).toNat (s.reg y).toNat

/-- DRW VX, VY, N (R144): dirty is set if a pixel changed and kept otherwise; the flag is the collision. -/
def execDrw (x y : RegIdx) (n : Count) (s : State) : Answer :=
  if s.spriteOk n then
    let d := s.drawing x y n
    .next ((s.setDisplay d.disp (s.dirty || d.changed)).setFlag d.collide).advance
  else raiseIn .memRange (.drw x y n) s

end Sys2Proof.Machine
end

