-- ==== Sys2Proof/Machine/Flow.lean ====
section
/-!
DEFINITION. System, control transfer and skip instructions (`40_flow_and_skips.md`), with JP V0, NNN
(`42_index_random_draw.md` R141).
-/

namespace Sys2Proof.Machine

open Sys2Proof

/-- SYS NNN (R100): the unknown-opcode path. -/
def execSys (nnn : Addr) (s : State) : Answer := raiseIn .unknownOpcode (.sys nnn) s

/-- CLS (R101): every pixel 0, dirty always set. -/
def execCls (s : State) : Answer := .next (s.setDisplay Display.blank true).advance

/-- RET (R102): the popped address + 2 (`90_conflicts.md` C3). -/
def execRet (s : State) : Answer :=
  if h : 0 < s.sp.val then .next (s.pop.setPc (s.top h + 2)) else raiseIn .stackUnderflow .ret s

/-- JP NNN (R103). -/
def execJp (nnn : Addr) (s : State) : Answer :=
  if targetOk nnn.toNat then .next (s.setPc (zextAddr nnn)) else raiseIn .badTarget (.jp nnn) s

/-- CALL NNN (R104): pushes its own address; the overflow is checked before the target (R210). -/
def execCall (nnn : Addr) (s : State) : Answer :=
  if h : s.sp.val < 16 then
    if targetOk nnn.toNat then .next ((s.push s.pc h).setPc (zextAddr nnn))
    else raiseIn .badTarget (.call nnn) s
  else raiseIn .stackOverflow (.call nnn) s

/-- JP V0, NNN (R141): the exact sum, refused outside 0x200 to 0xFFF. -/
def execJpV0 (nnn : Addr) (s : State) : Answer :=
  if targetOk (s.offsetTarget nnn) then .next (s.setPc (BitVec.ofNat 16 (s.offsetTarget nnn)))
  else raiseIn .badTarget (.jpV0 nnn) s

/-- SE VX, KK (R105). -/
def execSeImm (x : RegIdx) (kk : Byte) (s : State) : Answer := .next (s.skipIf (s.reg x == kk))

/-- SNE VX, KK (R106). -/
def execSneImm (x : RegIdx) (kk : Byte) (s : State) : Answer := .next (s.skipIf (s.reg x != kk))

/-- SE VX, VY (R107). -/
def execSeReg (x y : RegIdx) (s : State) : Answer := .next (s.skipIf (s.reg x == s.reg y))

/-- SNE VX, VY (R108). -/
def execSneReg (x y : RegIdx) (s : State) : Answer := .next (s.skipIf (s.reg x != s.reg y))

end Sys2Proof.Machine
end

