-- ==== Sys2Proof/Machine/Index.lean ====
section
/-!
DEFINITION. Index arithmetic and memory blocks (`42_index_random_draw.md` R140, `43_keys_timers_memory.md`
R168-R172).
-/

namespace Sys2Proof.Machine

open Sys2Proof

/-- LD I, NNN (R140). -/
def execLdI (nnn : Addr) (s : State) : Answer := .next (s.setIndex (zextAddr nnn)).advance

/-- ADD I, VX (R168): I wraps mod 2^16, the flag is taken from the exact sum. -/
def execAddI (x : RegIdx) (s : State) : Answer :=
  let r := indexAdd s.index (s.reg x)
  .next ((s.setIndex r.value).setFlag r.flag).advance

/-- LD F, VX (R169). -/
def execLdF (x : RegIdx) (s : State) : Answer := .next (s.setIndex (glyphAddr (s.reg x))).advance

/-- LD B, VX (R170): the three digits at I, I + 1, I + 2; I keeps its value. -/
def execLdB (x : RegIdx) (s : State) : Answer :=
  if s.reachOk 2 then
    .next (s.setMem (s.mem.writeBytes s.index.toNat (bcd (s.reg x)))).advance
  else raiseIn .memRange (.ldB x) s

/-- LD [I], VX (R171): registers 0 to X at I to I + X, then I + X + 1. -/
def execLdMemVx (x : RegIdx) (s : State) : Answer :=
  if s.reachOk x.val then
    .next (((s.setMem (s.mem.writeBytes s.index.toNat (s.regBlock x))).setIndex
      (BitVec.ofNat 16 (s.indexed (x.val + 1)))).advance)
  else raiseIn .memRange (.ldMemVx x) s

/-- LD VX, [I] (R172): registers 0 to X from I to I + X, then I + X + 1. -/
def execLdVxMem (x : RegIdx) (s : State) : Answer :=
  if s.reachOk x.val then
    .next (((s.loadRegs s.index.toNat x).setIndex (BitVec.ofNat 16 (s.indexed (x.val + 1)))).advance)
  else raiseIn .memRange (.ldVxMem x) s

end Sys2Proof.Machine
end

