-- ==== Sys2Proof/Machine/Keys.lean ====
section
/-!
DEFINITION. Key tests, timers and await-key (`43_keys_timers_memory.md` R160-R167).
-/

namespace Sys2Proof.Machine

open Sys2Proof

/-- SKP VX (R160): KEY_RANGE above 0xF (R162). -/
def execSkp (x : RegIdx) (s : State) : Answer :=
  match keyOf (s.reg x) with
  | some k => .next (s.skipIf (s.key k))
  | none => raiseIn .keyRange (.skp x) s

/-- SKNP VX (R161): KEY_RANGE above 0xF (R162). -/
def execSknp (x : RegIdx) (s : State) : Answer :=
  match keyOf (s.reg x) with
  | some k => .next (s.skipIf (!s.key k))
  | none => raiseIn .keyRange (.sknp x) s

/-- LD VX, DT (R164). -/
def execLdVxDt (x : RegIdx) (s : State) : Answer := .next (s.setReg x s.dt).advance

/-- LD VX, K (R165): the least pressed key (R163); with none pressed nothing changes, not even PC. -/
def execLdVxK (x : RegIdx) (s : State) : Answer :=
  match s.leastKey with
  | some k => .next (s.setReg x (BitVec.ofNat 8 k.val)).advance
  | none => .next s

/-- LD DT, VX (R166). -/
def execLdDtVx (x : RegIdx) (s : State) : Answer := .next (s.setDt (s.reg x)).advance

/-- LD ST, VX (R167): it emits nothing itself. -/
def execLdStVx (x : RegIdx) (s : State) : Answer := .next (s.setSt (s.reg x)).advance

end Sys2Proof.Machine
end

