-- ==== Sys2Proof/Machine/Step.lean ====
section
/-!
DEFINITION. The step transaction of `60_exceptions.md` R223, and the placing of a word where a step fetches it.
-/

namespace Sys2Proof.Machine

open Sys2Proof

/-- What a step does with a fetched word: the instruction it decodes to, or the unknown-opcode error (R202). -/
def runWord (w : Word) (s : State) : Host.Outcome State Fault Refusal :=
  match decode w with
  | .instr i => exec i s
  | .unknown => .next (raise .unknownOpcode (some w) s)

/-- R223: the fetch check, fetch, decode, execute. Exactly one instruction, one attempt or one error (R10). -/
def step (s : State) : Host.Outcome State Fault Refusal :=
  match s.fetch with
  | none => .next (raise .fetchRange none s)
  | some w => runWord w s

/-- `s` with PC where a fetch is legal: its own PC, or the entry point 0x200 where R74 refuses it. Log entry 10. -/
def State.withFetchablePc (s : State) : State := if s.fetchOk then s else s.setPc 0x200

/-- `s` with the table row's word stored at the address the next step fetches. Log entry 10. -/
def State.withFetchWord (s : State) (nbits w : Nat) : State :=
  let t := s.withFetchablePc
  t.storeWord t.pc.toNat (tableWord nbits w)

end Sys2Proof.Machine
end

