-- ==== Sys2Proof/Machine/Transactions.lean ====
section
/-!
DEFINITION. The transactions of `60_exceptions.md` R220 through which the host drives the core: `reset`, `load`,
`step`, `tick_timers`, `set_key`, `ack_frame`, `observe`. Each is one atomic transition (R221); the host may call
them in any order and number (R224). Overlapping calls have no transition (R221, log entry 8).
-/

namespace Sys2Proof.Machine

open Sys2Proof

/-- The result of `load` (R209, R242). -/
inductive LoadResult where
  | ok
  | tooLarge
  deriving DecidableEq, Repr

/-- A transaction with its inputs (R220). The random input of `step` is the free value of log entry 1. -/
inductive Transaction where
  | reset
  | load (program : List Byte)
  | step
  | tickTimers
  | setKey (k : Key) (pressed : Bool)
  | ackFrame
  | observe
  deriving DecidableEq, Repr

/-- What a transaction returns to the host besides the events it emits (R220, R227). -/
inductive Reply where
  | silent
  | loaded (r : LoadResult)
  | observed (s : State)
  deriving DecidableEq, Repr

/-- `reset()` (R240): every state item to its reset value. The trace of past outputs and the count of random bytes
taken are the model's own and stay, so that a second reset promises no second run of the same random bytes.
Log entries 1 and 2. -/
def resetAgain (s : State) : State := { State.reset with events := s.events, draws := s.draws }

/-- `load(P)` (R242): at most 3584 bytes, written from 0x200; nothing else changes. -/
def load (p : List Byte) (s : State) : State × LoadResult :=
  if p.length ≤ Config.progMax then (s.setMem (s.mem.writeBytes Config.progBase p), .ok) else (s, .tooLarge)

/-- One decrement of a timer, which stops at 0 (R230, R231). -/
def countDown (v : Byte) : Byte := if 0 < v.toNat then BitVec.ofNat 8 (v.toNat - 1) else v

/-- The delay timer's part of `tick_timers` (R230). -/
def tickDelay (s : State) : State := s.setDt (countDown s.dt)

/-- The sound timer's part, which emits `Tone` when ST is exactly 1 before the decrement (R231). -/
def tickSound (s : State) : State :=
  if s.st.toNat = 1 then (s.setSt (countDown s.st)).emit .tone else s.setSt (countDown s.st)

/-- `tick_timers()`: DT, then ST (R230, R231). -/
def tickTimers (s : State) : State := tickSound (tickDelay s)

/-- `set_key(k, pressed)` (R232). -/
def setKey (k : Key) (pressed : Bool) (s : State) : State := { s with keys := s.keys.set k pressed }

/-- `ack_frame()` (R233): dirty cleared, the display kept. -/
def ackFrame (s : State) : State := s.setDisplay s.disp false

/-- One transaction on a core that has been reset. -/
def transactOn (t : Transaction) (s : State) : Host.Outcome (State × Reply) Fault Refusal :=
  match t with
  | .reset => .next (resetAgain s, .silent)
  | .load p => .next ((load p s).1, .loaded (load p s).2)
  | .step =>
    match step s with
    | .next u => .next (u, .silent)
    | .fault r => .fault r
    | .refused r => .refused r
  | .tickTimers => .next (tickTimers s, .silent)
  | .setKey k b => .next (setKey k b s, .silent)
  | .ackFrame => .next (ackFrame s, .silent)
  | .observe => .next (s, .observed s)

/-- One transaction on a core that may not have been reset: before the first reset the state is absent and only
`reset` is defined (R38). -/
def transact (t : Transaction) (m : Option State) : Host.Outcome (State × Reply) Fault Refusal :=
  match m with
  | some s => transactOn t s
  | none =>
    match t with
    | .reset => .next (State.reset, .silent)
    | _ => .refused .beforeReset

/-- The host's transactions one after another, stopping at the first that is not answered (R221, R224). -/
def transactAll : List Transaction → Option State → Host.Outcome (Option State) Fault Refusal
  | [], m => .next m
  | t :: ts, m =>
    match transact t m with
    | .next (s, _) => transactAll ts (some s)
    | .fault r => .fault r
    | .refused r => .refused r

end Sys2Proof.Machine
end

