-- ==== Sys2Proof/Safety.lean ====
section
/-!
DEFINITION. The terms claims are stated in: what an answer must be, what an instruction leaves unchanged (its frame),
what an error does (R201), where a sprite lands (R143), and the invariant of the machine.
-/

namespace Sys2Proof.Safety

open Sys2Proof Sys2Proof.Machine

/-- `a` is a next state, and `p` holds of it. -/
def Answers (a : Answer) (p : State → Prop) : Prop := ∃ t, a = .next t ∧ p t

/-- The word with the value `n` decodes to `i` (R75, R76). -/
def Encodes (n : Nat) (i : Instr) : Prop := decode (BitVec.ofNat 16 n) = .instr i

/-- The value of the pattern `op X KK` (formats `XK` and `XS` of R71). -/
def wordXK (op : Nat) (x : RegIdx) (kk : Nat) : Nat := op * 0x1000 + x.val * 0x100 + kk

/-- The value of the pattern `op X Y n` (formats `XY` and `XYN` of R71). -/
def wordXYN (op : Nat) (x y : RegIdx) (n : Nat) : Nat := op * 0x1000 + x.val * 0x100 + y.val * 0x10 + n

/-- The parts of the state: the items of R39, and the model's own two. -/
inductive Part where
  | regs | index | pc | sp | stack | dt | st | disp | dirty | keys | mem | err | events | draws
  deriving DecidableEq, Repr

/-- Every part not in `ws` is the same in `t` as in `s`; for memory, every byte reads the same. -/
def UnchangedBut (ws : List Part) (s t : State) : Prop :=
  (Part.regs ∉ ws → ∀ r, t.reg r = s.reg r) ∧
  (Part.index ∉ ws → t.index = s.index) ∧
  (Part.pc ∉ ws → t.pc = s.pc) ∧
  (Part.sp ∉ ws → t.sp = s.sp) ∧
  (Part.stack ∉ ws → ∀ k, t.stackEntry k = s.stackEntry k) ∧
  (Part.dt ∉ ws → t.dt = s.dt) ∧
  (Part.st ∉ ws → t.st = s.st) ∧
  (Part.disp ∉ ws → ∀ col row, t.disp.pixel col row = s.disp.pixel col row) ∧
  (Part.dirty ∉ ws → t.dirty = s.dirty) ∧
  (Part.keys ∉ ws → ∀ k, t.key k = s.key k) ∧
  (Part.mem ∉ ws → ∀ a, t.mem.read a = s.mem.read a) ∧
  (Part.err ∉ ws → t.err = s.err) ∧
  (Part.events ∉ ws → t.events = s.events) ∧
  (Part.draws ∉ ws → t.draws = s.draws)

/-- Every register not in `rs` is the same in `t` as in `s`. -/
def KeepsRegs (rs : List RegIdx) (s t : State) : Prop := ∀ r, r ∉ rs → t.reg r = s.reg r

/-- The error action of R201 took `s` to `t`: exactly the cause's `ERR` bit is set on top of those set before, one
event is output, PC is advanced by 2 (kept for `FETCH_RANGE`), and nothing else changes. -/
def ErrorTaken (c : Cause) (w : Option Word) (s t : State) : Prop :=
  UnchangedBut [.err, .events, .pc] s t ∧
  (∀ k, k < 8 → t.err.getLsbD k = (s.err.getLsbD k || k + 1 == c.code)) ∧
  t.events = .error c s.pc w :: s.events ∧
  t.pc = if c = .fetchRange then s.pc else s.pc + 2

/-- `a` is the error `c` of R201, with the word of value `n` in its event. -/
def Errs (a : Answer) (c : Cause) (n : Nat) (s : State) : Prop :=
  Answers a fun t => ErrorTaken c (some (BitVec.ofNat 16 n)) s t

/-- The word at PC in memory, big-endian, is `w`, and PC is where a fetch is legal (R73, R74). -/
def FetchesWord (s : State) (w : Word) : Prop :=
  0x200 ≤ s.pc.toNat ∧ s.pc.toNat ≤ 0xFFE ∧
  w.toNat = (s.mem.read s.pc.toNat).toNat * 256 + (s.mem.read (s.pc.toNat + 1)).toNat

/-- A set bit of the sprite of N rows at I, drawn at (x[X], x[Y]), lands on pixel (col, row) (R143): row k, pixel b
of the row is bit 7 - b of the byte at I + k. -/
def SpriteLands (s : State) (x y : RegIdx) (n : Count) (col row : Nat) : Prop :=
  ∃ k b, k < n.val ∧ b < 8 ∧ row = (s.reg y).toNat + k ∧ col = (s.reg x).toNat + b ∧
    (s.mem.read (s.index.toNat + k)).getLsbD (7 - b) = true

/-- The access of DRW stays in memory (R144, R206). -/
def SpriteInMemory (s : State) (n : Count) : Prop := n.val = 0 ∨ s.index.toNat + n.val - 1 ≤ 0xFFF

/-- The invariant of the machine: memory keeps its canonical form; PC is never below 0x200 nor above 0x1002 (R22,
R23); the reserved bit 7 of `ERR` is 0 (R35); the active stack entries are addresses of call instructions, hence
fetchable (R74, R104). -/
def GoodState (s : State) : Prop :=
  s.mem.wf ∧
  (0x200 ≤ s.pc.toNat ∧ s.pc.toNat ≤ 0x1002) ∧
  s.err.getLsbD 7 = false ∧
  ∀ k : Fin 16, k.val < s.sp.val → 0x200 ≤ (s.stackEntry k).toNat ∧ (s.stackEntry k).toNat ≤ 0xFFE

/-- A safe run's last state: no error has been recorded (`92_eei_decisions.md` D2: a claim about a good run takes
`ERR = 0`). -/
def NoError (s : State) : Prop := s.err = 0

end Sys2Proof.Safety
end

