-- ==== Sys2Proof/Certificates/Slice0/Obligations.lean ====
section
/-!
DEFINITION. The statements for the provers, from the numbered rules of spec/. Each docstring names the rule. The
encoding line of every instruction's rule, which the spec marks as general knowledge (G1, log entry 5), is stated for
all of them in `OpcodeMapPatternsDecode`. Where a docstring names a decision D<n>, that clause is the spec's own choice
(`92_eei_decisions.md`, log entry 16); the statement is then listed as derived.
-/

open Sys2Proof Sys2Proof.Machine Sys2Proof.Safety

/-! ### Encoding and decoding -/

/-- R75, R76 (patterns: G1, log entry 5): every well-formed instruction, at every operand value, is what its word
decodes to. -/
def Obligations.DecodeInvertsEncode : Prop :=
  ∀ i : Instr, i.wellFormed = true → decode (encode i) = .instr i

/-- R75, R76 (patterns: G1, log entry 5): no two words decode to the same instruction, and only instructions of the
map are decoded. -/
def Obligations.EncodeInvertsDecode : Prop :=
  ∀ (w : Word) (i : Instr), decode w = .instr i → encode i = w ∧ i.wellFormed = true

/-- R77 (patterns: G1, log entry 5; N ≠ 0 in families 5 and 9: decision D6, log entry 6): the words that decode to
`Unknown`, by their fields. -/
def Obligations.UnknownWordsAreExactlyThese : Prop :=
  ∀ w : Word, decode w = .unknown ↔
    let op := w.toNat / 0x1000
    let n := w.toNat % 0x10
    let kk := w.toNat % 0x100
    ((op = 0x5 ∨ op = 0x9) ∧ n ≠ 0) ∨
    (op = 0x8 ∧ n ∈ [0x8, 0x9, 0xA, 0xB, 0xC, 0xD, 0xF]) ∨
    (op = 0xE ∧ kk ∉ [0x9E, 0xA1]) ∨
    (op = 0xF ∧ kk ∉ [0x07, 0x0A, 0x15, 0x18, 0x1E, 0x29, 0x33, 0x55, 0x65])

/-- Words of the vectors of `95_test_vectors.md`, one or more per family, decode to the instruction they stand for
(patterns: G1, log entry 5). -/
def Obligations.SampleWordsDecode : Prop :=
  Encodes 0x0123 (.sys 0x123) ∧ Encodes 0x00E0 .cls ∧ Encodes 0x00EE .ret ∧ Encodes 0x3342 (.seImm 3 0x42) ∧
  Encodes 0x8AB4 (.addReg 0xA 0xB) ∧ Encodes 0x84A6 (.shr 4 0xA) ∧ Encodes 0xD015 (.drw 0 1 5) ∧
  Encodes 0xE5A1 (.sknp 5) ∧ Encodes 0xF265 (.ldVxMem 2) ∧ decode 0x5121 = .unknown

/-- R76: the pattern of every row, at every operand value. The patterns are the family's
(`93_implementation_defined.md` G1, log entry 5), and N = 0 in rows 8 and 9 is the spec's own choice (decision D6, log
entry 6). -/
def Obligations.OpcodeMapPatternsDecode : Prop :=
  (∀ nnn : Addr,
    (nnn ≠ 0x0E0 → nnn ≠ 0x0EE → Encodes nnn.toNat (.sys nnn)) ∧
    Encodes (0x1000 + nnn.toNat) (.jp nnn) ∧ Encodes (0x2000 + nnn.toNat) (.call nnn) ∧
    Encodes (0xA000 + nnn.toNat) (.ldI nnn) ∧ Encodes (0xB000 + nnn.toNat) (.jpV0 nnn)) ∧
  Encodes 0x00E0 .cls ∧ Encodes 0x00EE .ret ∧
  (∀ (x : RegIdx) (kk : Byte),
    Encodes (wordXK 0x3 x kk.toNat) (.seImm x kk) ∧ Encodes (wordXK 0x4 x kk.toNat) (.sneImm x kk) ∧
    Encodes (wordXK 0x6 x kk.toNat) (.ldImm x kk) ∧ Encodes (wordXK 0x7 x kk.toNat) (.addImm x kk) ∧
    Encodes (wordXK 0xC x kk.toNat) (.rnd x kk)) ∧
  (∀ x y : RegIdx,
    Encodes (wordXYN 0x5 x y 0x0) (.seReg x y) ∧ Encodes (wordXYN 0x9 x y 0x0) (.sneReg x y) ∧
    Encodes (wordXYN 0x8 x y 0x0) (.ldReg x y) ∧ Encodes (wordXYN 0x8 x y 0x1) (.orReg x y) ∧
    Encodes (wordXYN 0x8 x y 0x2) (.andReg x y) ∧ Encodes (wordXYN 0x8 x y 0x3) (.xorReg x y) ∧
    Encodes (wordXYN 0x8 x y 0x4) (.addReg x y) ∧ Encodes (wordXYN 0x8 x y 0x5) (.subReg x y) ∧
    Encodes (wordXYN 0x8 x y 0x7) (.subnReg x y) ∧ Encodes (wordXYN 0x8 x y 0x6) (.shr x y) ∧
    Encodes (wordXYN 0x8 x y 0xE) (.shl x y) ∧
    ∀ n : Count, Encodes (wordXYN 0xD x y n.val) (.drw x y n)) ∧
  (∀ x : RegIdx,
    Encodes (wordXK 0xE x 0x9E) (.skp x) ∧ Encodes (wordXK 0xE x 0xA1) (.sknp x) ∧
    Encodes (wordXK 0xF x 0x07) (.ldVxDt x) ∧ Encodes (wordXK 0xF x 0x0A) (.ldVxK x) ∧
    Encodes (wordXK 0xF x 0x15) (.ldDtVx x) ∧ Encodes (wordXK 0xF x 0x18) (.ldStVx x) ∧
    Encodes (wordXK 0xF x 0x1E) (.addI x) ∧ Encodes (wordXK 0xF x 0x29) (.ldF x) ∧
    Encodes (wordXK 0xF x 0x33) (.ldB x) ∧ Encodes (wordXK 0xF x 0x55) (.ldMemVx x) ∧
    Encodes (wordXK 0xF x 0x65) (.ldVxMem x))

/-! ### The step -/

/-- R223: where the word at PC decodes to `i`, a step is `i`'s execution and nothing around it. -/
def Obligations.StepRunsDecodedInstruction : Prop :=
  ∀ (s : State) (w : Word) (i : Instr), FetchesWord s w → decode w = .instr i → step s = exec i s

/-- R202: a word that decodes to `Unknown` or SYS is the error UNKNOWN_OPCODE, recorded with its address (the record:
decision D3). -/
def Obligations.UnknownOpcodeIsReportedNoOp : Prop :=
  ∀ (s : State) (w : Word), FetchesWord s w → (decode w = .unknown ∨ ∃ nnn, decode w = .instr (.sys nnn)) →
    Answers (step s) fun t => ErrorTaken .unknownOpcode (some w) s t

/-- R207 (decisions D3, D8): outside 0x200 to 0xFFE a step raises FETCH_RANGE, and so does every later step, with
nothing else. -/
def Obligations.FetchRangeRepeats : Prop :=
  ∀ s : State, (s.pc.toNat < 0x200 ∨ 0xFFE < s.pc.toNat) →
    (Answers (step s) fun t => ErrorTaken .fetchRange none s t) ∧
    ∀ n, Answers (core.run n s) fun t => UnchangedBut [.err, .events] s t ∧
      t.events = List.replicate n (.error .fetchRange s.pc none) ++ s.events

/-- R201 (decisions D2, D3): the shared error action, for every cause. -/
def Obligations.ErrorActionIsReportedNoOp : Prop :=
  ∀ (c : Cause) (w : Option Word) (s : State), ErrorTaken c w s (raise c w s)

/-- R201, R211, R227 (decisions D2, D3): every step answers a next state; it outputs nothing and leaves `ERR`, or it
is one error with none of the instruction's writes. -/
def Obligations.StepCompletesOrTakesOneError : Prop :=
  ∀ s : State, Answers (step s) fun t =>
    (t.events = s.events ∧ t.err = s.err) ∨ ∃ c w, ErrorTaken c w s t

/-! ### System, control transfer and skips (`40_flow_and_skips.md`) -/

/-- R100: SYS NNN (decision D5). -/
def Obligations.SysTakesUnknownOpcodePath : Prop :=
  ∀ (nnn : Addr) (s : State),
    Errs (exec (.sys nnn) s) .unknownOpcode nnn.toNat s

/-- R101: CLS. -/
def Obligations.ClsBlanksAndMarksDirty : Prop :=
  ∀ s : State, Answers (exec .cls s) fun t =>
    (∀ col row, t.disp.pixel col row = false) ∧ t.dirty = true ∧ t.pc = s.pc + 2 ∧
    UnchangedBut [.disp, .dirty, .pc] s t

/-- R102: RET (the + 2: `90_conflicts.md` C3; the error's action: decisions D2, D3). -/
def Obligations.RetPopsAndAddsTwo : Prop :=
  ∀ s : State,
    (∀ k : Fin 16, s.sp.val = k.val + 1 → Answers (exec .ret s) fun t =>
      t.pc = s.stackEntry k + 2 ∧ t.sp.val = k.val ∧ UnchangedBut [.pc, .sp] s t) ∧
    (s.sp.val = 0 → Errs (exec .ret s) .stackUnderflow 0x00EE s)

/-- R103: JP NNN (the refused target: decision D7; the error's action: D2, D3). -/
def Obligations.JpSetsPc : Prop :=
  ∀ (nnn : Addr) (s : State),
    (0x200 ≤ nnn.toNat → Answers (exec (.jp nnn) s) fun t =>
      t.pc.toNat = nnn.toNat ∧ UnchangedBut [.pc] s t) ∧
    (nnn.toNat < 0x200 → Errs (exec (.jp nnn) s) .badTarget (0x1000 + nnn.toNat) s)

/-- R104: CALL NNN; with a full stack the overflow is reported whatever the target (R210, decision D4; the refused
target: decision D7; the errors' action: D2, D3). -/
def Obligations.CallPushesItsAddress : Prop :=
  ∀ (nnn : Addr) (s : State),
    (∀ k : Fin 16, s.sp.val = k.val → 0x200 ≤ nnn.toNat → Answers (exec (.call nnn) s) fun t =>
      t.stackEntry k = s.pc ∧ (∀ j, j ≠ k → t.stackEntry j = s.stackEntry j) ∧ t.sp.val = k.val + 1 ∧
      t.pc.toNat = nnn.toNat ∧ UnchangedBut [.stack, .sp, .pc] s t) ∧
    (s.sp.val = 16 → Errs (exec (.call nnn) s) .stackOverflow (0x2000 + nnn.toNat) s) ∧
    (s.sp.val < 16 → nnn.toNat < 0x200 → Errs (exec (.call nnn) s) .badTarget (0x2000 + nnn.toNat) s)

/-- R105, R106: SE VX, KK and SNE VX, KK. -/
def Obligations.SkipsOnImmediate : Prop :=
  ∀ (x : RegIdx) (kk : Byte) (s : State),
    (Answers (exec (.seImm x kk) s) fun t =>
      t.pc = (if s.reg x = kk then s.pc + 4 else s.pc + 2) ∧ UnchangedBut [.pc] s t) ∧
    (Answers (exec (.sneImm x kk) s) fun t =>
      t.pc = (if s.reg x ≠ kk then s.pc + 4 else s.pc + 2) ∧ UnchangedBut [.pc] s t)

/-- R107, R108: SE VX, VY and SNE VX, VY. -/
def Obligations.SkipsOnRegisters : Prop :=
  ∀ (x y : RegIdx) (s : State),
    (Answers (exec (.seReg x y) s) fun t =>
      t.pc = (if s.reg x = s.reg y then s.pc + 4 else s.pc + 2) ∧ UnchangedBut [.pc] s t) ∧
    (Answers (exec (.sneReg x y) s) fun t =>
      t.pc = (if s.reg x ≠ s.reg y then s.pc + 4 else s.pc + 2) ∧ UnchangedBut [.pc] s t)

/-- R254 (a) (decisions D29, D7): with the word 1NNN at PC and NNN = PC, a step leaves the whole state unchanged. -/
def Obligations.SelfJumpChangesNothing : Prop :=
  ∀ (s : State) (w : Word), FetchesWord s w → w.toNat = 0x1000 + s.pc.toNat → step s = .next s

/-- R102, R104, `90_conflicts.md` C3: a RET right after a CALL continues after the call, the stack as deep as
before. -/
def Obligations.CallThenRetReturnsAfterCall : Prop :=
  ∀ (nnn : Addr) (s : State), s.sp.val < 16 → 0x200 ≤ nnn.toNat →
    Answers (exec (.call nnn) s) fun t => Answers (exec .ret t) fun u =>
      u.pc = s.pc + 2 ∧ u.sp = s.sp ∧ UnchangedBut [.pc, .stack] s u

/-! ### Loads and ALU (`41_alu.md`) -/

/-- R122: LD VX, KK. -/
def Obligations.LdImmediateSetsRegister : Prop :=
  ∀ (x : RegIdx) (kk : Byte) (s : State),
    Answers (exec (.ldImm x kk) s) fun t =>
      t.reg x = kk ∧ KeepsRegs [x] s t ∧ t.pc = s.pc + 2 ∧ UnchangedBut [.regs, .pc] s t

/-- R123: ADD VX, KK, mod 256, no flag. -/
def Obligations.AddImmediateWrapsWithoutFlag : Prop :=
  ∀ (x : RegIdx) (kk : Byte) (s : State),
    Answers (exec (.addImm x kk) s) fun t =>
      (t.reg x).toNat = ((s.reg x).toNat + kk.toNat) % 256 ∧ KeepsRegs [x] s t ∧ t.pc = s.pc + 2 ∧
      UnchangedBut [.regs, .pc] s t

/-- R124 to R127: LD VX, VY, OR, AND, XOR, bit by bit, no flag. -/
def Obligations.CopyAndBitwiseOps : Prop :=
  ∀ (x y : RegIdx) (s : State),
    let done (f : Bool → Bool → Bool) (t : State) : Prop :=
      (∀ k, k < 8 → (t.reg x).getLsbD k = f ((s.reg x).getLsbD k) ((s.reg y).getLsbD k)) ∧
      KeepsRegs [x] s t ∧ t.pc = s.pc + 2 ∧ UnchangedBut [.regs, .pc] s t
    Answers (exec (.ldReg x y) s) (done fun _ b => b) ∧
    Answers (exec (.orReg x y) s) (done fun a b => a || b) ∧
    Answers (exec (.andReg x y) s) (done fun a b => a && b) ∧
    Answers (exec (.xorReg x y) s) (done fun a b => a != b)

/-- R128: ADD VX, VY. With X = 0xF register 0xF ends as the flag, as the rule's corner case says (R9, decision D10).
-/
def Obligations.AddRegistersCarries : Prop :=
  ∀ (x y : RegIdx) (s : State),
    Answers (exec (.addReg x y) s) fun t =>
      (x ≠ 0xF → (t.reg x).toNat = ((s.reg x).toNat + (s.reg y).toNat) % 256) ∧
      (t.reg 0xF).toNat = (if (s.reg x).toNat + (s.reg y).toNat > 255 then 1 else 0) ∧
      KeepsRegs [x, 0xF] s t ∧ t.pc = s.pc + 2 ∧ UnchangedBut [.regs, .pc] s t

/-- R129: SUB VX, VY. A negative difference d is written as d + 256 (R120); X = 0xF as in R128. -/
def Obligations.SubRegistersNotBorrow : Prop :=
  ∀ (x y : RegIdx) (s : State),
    Answers (exec (.subReg x y) s) fun t =>
      (x ≠ 0xF → ((t.reg x).toNat : Int) = ((s.reg x).toNat - (s.reg y).toNat : Int) % 256) ∧
      (t.reg 0xF).toNat = (if (s.reg x).toNat ≥ (s.reg y).toNat then 1 else 0) ∧
      KeepsRegs [x, 0xF] s t ∧ t.pc = s.pc + 2 ∧ UnchangedBut [.regs, .pc] s t

/-- R130: SUBN VX, VY; X = 0xF as in R128. -/
def Obligations.SubnRegistersNotBorrow : Prop :=
  ∀ (x y : RegIdx) (s : State),
    Answers (exec (.subnReg x y) s) fun t =>
      (x ≠ 0xF → ((t.reg x).toNat : Int) = ((s.reg y).toNat - (s.reg x).toNat : Int) % 256) ∧
      (t.reg 0xF).toNat = (if (s.reg y).toNat ≥ (s.reg x).toNat then 1 else 0) ∧
      KeepsRegs [x, 0xF] s t ∧ t.pc = s.pc + 2 ∧ UnchangedBut [.regs, .pc] s t

/-- R131: SHR VX, whatever Y (`SHIFT_SRC` = X: decision D9, log entry 6). -/
def Obligations.ShiftRightFlagsBitZero : Prop :=
  ∀ (x y : RegIdx) (s : State),
    Answers (exec (.shr x y) s) fun t =>
      (x ≠ 0xF → (t.reg x).toNat = (s.reg x).toNat / 2) ∧
      (t.reg 0xF).toNat = (s.reg x).toNat % 2 ∧
      KeepsRegs [x, 0xF] s t ∧ t.pc = s.pc + 2 ∧ UnchangedBut [.regs, .pc] s t

/-- R132: SHL VX, whatever Y (`SHIFT_SRC` = X: decision D9, log entry 6). -/
def Obligations.ShiftLeftFlagsBitSeven : Prop :=
  ∀ (x y : RegIdx) (s : State),
    Answers (exec (.shl x y) s) fun t =>
      (x ≠ 0xF → (t.reg x).toNat = (s.reg x).toNat * 2 % 256) ∧
      (t.reg 0xF).toNat = (s.reg x).toNat / 128 ∧
      KeepsRegs [x, 0xF] s t ∧ t.pc = s.pc + 2 ∧ UnchangedBut [.regs, .pc] s t

/-! ### Index, jump-with-offset, random, draw (`42_index_random_draw.md`) -/

/-- R140: LD I, NNN. -/
def Obligations.SetIndexLoadsAddress : Prop :=
  ∀ (nnn : Addr) (s : State),
    Answers (exec (.ldI nnn) s) fun t =>
      t.index.toNat = nnn.toNat ∧ t.pc = s.pc + 2 ∧ UnchangedBut [.index, .pc] s t

/-- R141: JP V0, NNN, on the exact sum (the refused target: decision D7; the error's action: D2, D3). -/
def Obligations.JumpWithOffsetExactTarget : Prop :=
  ∀ (nnn : Addr) (s : State),
    let target := (s.reg 0).toNat + nnn.toNat
    (0x200 ≤ target → target ≤ 0xFFF → Answers (exec (.jpV0 nnn) s) fun t =>
      t.pc.toNat = target ∧ UnchangedBut [.pc] s t) ∧
    (target < 0x200 ∨ 0xFFF < target → Errs (exec (.jpV0 nnn) s) .badTarget (0xB000 + nnn.toNat) s)

/-- R142, R226 (decision D21): RND VX, KK. The random byte is the free value of log entry 1, so the first part holds
whatever it is; the second is the instruction's result for every byte the environment may supply. -/
def Obligations.RandomIsMasked : Prop :=
  ∀ (x : RegIdx) (kk : Byte) (s : State),
    (Answers (exec (.rnd x kk) s) fun t =>
      t.reg x = Config.rnd s.draws &&& kk ∧ KeepsRegs [x] s t ∧ t.pc = s.pc + 2 ∧ t.draws = s.draws + 1 ∧
      UnchangedBut [.regs, .pc, .draws] s t) ∧
    ∀ (byte : Byte) (k : Nat), k < 8 →
      ((s.withRandom byte x kk).reg x).getLsbD k = (byte.getLsbD k && kk.getLsbD k)

/-- R143, R144: DRW VX, VY, N, pixel by pixel (bit order: decision D11, log entry 5; clipping of rows and no wrap of
the start: decision D12; the refused range: decision D18; the error's action: D2, D3). -/
def Obligations.DrawSpriteXorsPixels : Prop :=
  ∀ (x y : RegIdx) (n : Count) (s : State),
    (SpriteInMemory s n → Answers (exec (.drw x y n) s) fun t =>
      (∀ (col : Fin 64) (row : Fin 32),
        (SpriteLands s x y n col.val row.val → t.disp.pixel col row = !s.disp.pixel col row) ∧
        (¬ SpriteLands s x y n col.val row.val → t.disp.pixel col row = s.disp.pixel col row)) ∧
      ((∃ (col : Fin 64) (row : Fin 32), SpriteLands s x y n col.val row.val ∧ s.disp.pixel col row = true) →
        t.reg 0xF = 1) ∧
      ((∀ (col : Fin 64) (row : Fin 32), SpriteLands s x y n col.val row.val → s.disp.pixel col row = false) →
        t.reg 0xF = 0) ∧
      (t.dirty = true ↔ s.dirty = true ∨ ∃ (col : Fin 64) (row : Fin 32), SpriteLands s x y n col.val row.val) ∧
      KeepsRegs [0xF] s t ∧ t.pc = s.pc + 2 ∧ UnchangedBut [.disp, .dirty, .regs, .pc] s t) ∧
    (¬ SpriteInMemory s n → Errs (exec (.drw x y n) s) .memRange (wordXYN 0xD x y n.val) s)

/-- R144 (the source's example W6): drawing the same sprite at the same place twice restores every pixel. -/
def Obligations.DrawingTwiceRestoresDisplay : Prop :=
  ∀ (x y : RegIdx) (n : Count) (s : State), x ≠ 0xF → y ≠ 0xF → SpriteInMemory s n →
    Answers (exec (.drw x y n) s) fun t => Answers (exec (.drw x y n) t) fun u => u.disp = s.disp

/-! ### Keys, timers, index arithmetic, memory blocks (`43_keys_timers_memory.md`) -/

/-- R160, R161, R162, R208: SKP VX and SKNP VX (above 0xF: decision D17; the error's action: D2, D3). -/
def Obligations.KeySkipsTestTheKey : Prop :=
  ∀ (x : RegIdx) (s : State),
    (∀ k : Key, (s.reg x).toNat = k.val →
      (Answers (exec (.skp x) s) fun t =>
        t.pc = (if s.key k = true then s.pc + 4 else s.pc + 2) ∧ UnchangedBut [.pc] s t) ∧
      (Answers (exec (.sknp x) s) fun t =>
        t.pc = (if s.key k = false then s.pc + 4 else s.pc + 2) ∧ UnchangedBut [.pc] s t)) ∧
    (0xF < (s.reg x).toNat →
      Errs (exec (.skp x) s) .keyRange (wordXK 0xE x 0x9E) s ∧
      Errs (exec (.sknp x) s) .keyRange (wordXK 0xE x 0xA1) s)

/-- R164: LD VX, DT. -/
def Obligations.ReadDelayTimer : Prop :=
  ∀ (x : RegIdx) (s : State),
    Answers (exec (.ldVxDt x) s) fun t =>
      t.reg x = s.dt ∧ KeepsRegs [x] s t ∧ t.pc = s.pc + 2 ∧ UnchangedBut [.regs, .pc] s t

/-- R163, R165: LD VX, K takes the least pressed key (decision D17); with none pressed the whole state is unchanged.
-/
def Obligations.AwaitKeyTakesLeastOrWaits : Prop :=
  ∀ (x : RegIdx) (s : State),
    (∀ k : Key, s.key k = true → (∀ j : Key, j.val < k.val → s.key j = false) →
      Answers (exec (.ldVxK x) s) fun t =>
        (t.reg x).toNat = k.val ∧ KeepsRegs [x] s t ∧ t.pc = s.pc + 2 ∧ UnchangedBut [.regs, .pc] s t) ∧
    ((∀ k : Key, s.key k = false) → exec (.ldVxK x) s = .next s)

/-- R36, R254 (b) (decision D29): with an await-key instruction at PC and no key pressed, a step leaves the whole
state unchanged, however often it is taken. -/
def Obligations.AwaitKeyWaitChangesNothing : Prop :=
  ∀ (s : State) (w : Word) (x : RegIdx), FetchesWord s w → w.toNat = wordXK 0xF x 0x0A →
    (∀ k : Key, s.key k = false) → ∀ n, core.run n s = .next s

/-- R166, R167: LD DT, VX and LD ST, VX; no output. -/
def Obligations.SetTimers : Prop :=
  ∀ (x : RegIdx) (s : State),
    (Answers (exec (.ldDtVx x) s) fun t =>
      t.dt = s.reg x ∧ t.pc = s.pc + 2 ∧ UnchangedBut [.dt, .pc] s t) ∧
    (Answers (exec (.ldStVx x) s) fun t =>
      t.st = s.reg x ∧ t.pc = s.pc + 2 ∧ UnchangedBut [.st, .pc] s t)

/-- R168: ADD I, VX: 16-bit wrap, the flag from the exact sum (decision D16). -/
def Obligations.AddToIndexFlagsOverflow : Prop :=
  ∀ (x : RegIdx) (s : State),
    Answers (exec (.addI x) s) fun t =>
      t.index.toNat = (s.index.toNat + (s.reg x).toNat) % 2 ^ 16 ∧
      (t.reg 0xF).toNat = (if s.index.toNat + (s.reg x).toNat > 0xFFF then 1 else 0) ∧
      KeepsRegs [0xF] s t ∧ t.pc = s.pc + 2 ∧ UnchangedBut [.index, .regs, .pc] s t

/-- R169: LD F, VX, on the low nibble, with `FONT_BASE` 0x050 (decision D13, log entry 6). -/
def Obligations.FontAddressFromLowNibble : Prop :=
  ∀ (x : RegIdx) (s : State),
    Answers (exec (.ldF x) s) fun t =>
      t.index.toNat = 0x050 + (s.reg x).toNat % 16 * 5 ∧ t.pc = s.pc + 2 ∧ UnchangedBut [.index, .pc] s t

/-- R170: LD B, VX (I unchanged and PC + 2: decision D14; the refused range: D18; the error's action: D2, D3); every
byte outside I to I + 2 reads as before. -/
def Obligations.StoreBcdDigits : Prop :=
  ∀ (x : RegIdx) (s : State),
    let i := s.index.toNat
    let v := (s.reg x).toNat
    (i + 2 ≤ 0xFFF → Answers (exec (.ldB x) s) fun t =>
      (t.mem.read i).toNat = v / 100 ∧ (t.mem.read (i + 1)).toNat = v / 10 % 10 ∧
      (t.mem.read (i + 2)).toNat = v % 10 ∧
      (∀ a, a < i ∨ i + 2 < a → t.mem.read a = s.mem.read a) ∧
      t.pc = s.pc + 2 ∧ UnchangedBut [.mem, .pc] s t) ∧
    (0xFFF < i + 2 → Errs (exec (.ldB x) s) .memRange (wordXK 0xF x 0x33) s)

/-- R171: LD [I], VX (the refused range: decision D18; the error's action: D2, D3); every byte outside I to I + X
reads as before. -/
def Obligations.StoreRegisterBlock : Prop :=
  ∀ (x : RegIdx) (s : State),
    let i := s.index.toNat
    (i + x.val ≤ 0xFFF → Answers (exec (.ldMemVx x) s) fun t =>
      (∀ k : RegIdx, k.val ≤ x.val → t.mem.read (i + k.val) = s.reg k) ∧
      (∀ a, a < i ∨ i + x.val < a → t.mem.read a = s.mem.read a) ∧
      t.index.toNat = i + x.val + 1 ∧ t.pc = s.pc + 2 ∧ UnchangedBut [.mem, .index, .pc] s t) ∧
    (0xFFF < i + x.val → Errs (exec (.ldMemVx x) s) .memRange (wordXK 0xF x 0x55) s)

/-- R172: LD VX, [I] (the new I: decision D15; the refused range: D18; the error's action: D2, D3); registers above X
keep their values. -/
def Obligations.LoadRegisterBlock : Prop :=
  ∀ (x : RegIdx) (s : State),
    let i := s.index.toNat
    (i + x.val ≤ 0xFFF → Answers (exec (.ldVxMem x) s) fun t =>
      (∀ k : RegIdx, k.val ≤ x.val → t.reg k = s.mem.read (i + k.val)) ∧
      (∀ k : RegIdx, x.val < k.val → t.reg k = s.reg k) ∧
      t.index.toNat = i + x.val + 1 ∧ t.pc = s.pc + 2 ∧ UnchangedBut [.regs, .index, .pc] s t) ∧
    (0xFFF < i + x.val → Errs (exec (.ldVxMem x) s) .memRange (wordXK 0xF x 0x65) s)

/-- R171, R172: a block stored and loaded again from the same I gives every register its value back, and the same
I (decision D15). -/
def Obligations.StoredBlockLoadsBack : Prop :=
  ∀ (x : RegIdx) (s : State), s.index.toNat + x.val ≤ 0xFFF →
    Answers (exec (.ldMemVx x) s) fun t => ∀ p : State,
      (∀ a, p.mem.read a = t.mem.read a) → p.index = s.index →
      Answers (exec (.ldVxMem x) p) fun u =>
        (∀ k : RegIdx, k.val ≤ x.val → u.reg k = s.reg k) ∧ u.index = t.index

/-! ### Timers and host transactions (`60_exceptions.md`, `70_reset_and_hazards.md`) -/

/-- R230, R231: one tick of both timers, and the tone, which the model keeps in its trace of outputs (log entry 2). -/
def Obligations.TickCountsDownAndSignalsTone : Prop :=
  ∀ s : State,
    transact .tickTimers (some s) = .next (tickTimers s, .silent) ∧
    (tickTimers s).dt.toNat = (if s.dt.toNat > 0 then s.dt.toNat - 1 else 0) ∧
    (tickTimers s).st.toNat = (if s.st.toNat > 0 then s.st.toNat - 1 else 0) ∧
    (tickTimers s).events = (if s.st.toNat = 1 then .tone :: s.events else s.events) ∧
    UnchangedBut [.dt, .st, .events] s (tickTimers s)

/-- The source's property W8 (§8), for any number of ticks and any start: DT counts down to 0 and stays there, and
the whole run of ticks signals one tone exactly if ST was nonzero and is counted out. -/
def Obligations.TicksDrainTimersWithOneTone : Prop :=
  ∀ (n : Nat) (s : State),
    (tickTimers^[n] s).dt.toNat = s.dt.toNat - n ∧
    (tickTimers^[n] s).st.toNat = s.st.toNat - n ∧
    (tickTimers^[n] s).events =
      (if 0 < s.st.toNat ∧ s.st.toNat ≤ n then .tone :: s.events else s.events)

/-- R232, R233: `set_key` and `ack_frame`. -/
def Obligations.HostSetsKeysAndClearsDirty : Prop :=
  ∀ (k : Key) (b : Bool) (s : State),
    (∃ t, transact (.setKey k b) (some s) = .next (t, .silent) ∧
      t.key k = b ∧ (∀ j, j ≠ k → t.key j = s.key j) ∧ UnchangedBut [.keys] s t) ∧
    (∃ t, transact .ackFrame (some s) = .next (t, .silent) ∧ t.dirty = false ∧ UnchangedBut [.dirty] s t)

/-- R209, and R242, R243 (load sets no PC: decision D24): `load`. -/
def Obligations.LoadWritesExactlyTheProgram : Prop :=
  ∀ (p : List Byte) (s : State),
    (p.length ≤ 3584 → ∃ t, transact (.load p) (some s) = .next (t, .loaded .ok) ∧
      (∀ j, ∀ h : j < p.length, t.mem.read (0x200 + j) = p[j]) ∧
      (∀ a, a < 0x200 ∨ 0x200 + p.length ≤ a → t.mem.read a = s.mem.read a) ∧ UnchangedBut [.mem] s t) ∧
    (3584 < p.length → transact (.load p) (some s) = .next (s, .loaded .tooLarge))

/-- R39, R240 (keys, dirty and `ERR`: decision D23; the font: D13, log entry 5): every item of the table after
`reset`, at any time. The model's own two fields are not spoken of. -/
def Obligations.ResetLeavesTheTable : Prop :=
  ∀ m : Option State, ∃ t, transact .reset m = .next (t, .silent) ∧
    (∀ r, t.reg r = 0) ∧ t.index = 0 ∧ t.pc = 0x200 ∧ t.sp = 0 ∧ (∀ k, t.stackEntry k = 0) ∧
    t.dt = 0 ∧ t.st = 0 ∧ (∀ col row, t.disp.pixel col row = false) ∧ t.dirty = false ∧
    (∀ k, t.key k = false) ∧ t.err = 0 ∧
    (∀ a, a < 4096 → t.mem.read a =
      if 0x050 ≤ a ∧ a ≤ 0x09F then Config.fontGlyphs.getD (a - 0x050) 0 else 0)

/-- R38 (decision D30): before the first reset no transaction but `reset` is defined, and a run of transactions that
is answered began with it. -/
def Obligations.NothingBeforeFirstReset : Prop :=
  ∀ (t : Transaction) (ts : List Transaction),
    (t ≠ .reset → transact t none = .refused .beforeReset) ∧
    ((∃ m, transactAll (t :: ts) none = .next m) ↔ t = .reset)

/-! ### Whole-machine rules -/

/-- R22, R23, R35, R74, R104: every step from a state with the invariant leads to one with it. -/
def Obligations.StepKeepsInvariant : Prop :=
  ∀ s t : State, GoodState s → step s = .next t → GoodState t

/-- The invariant holds right after reset. -/
def Obligations.ResetMeetsInvariant : Prop := GoodState State.reset

/-- R229: every host transaction keeps the invariant. -/
def Obligations.TransactionsKeepInvariant : Prop :=
  ∀ (a : Transaction) (s t : State) (r : Reply), GoodState s → transactOn a s = .next (t, r) → GoodState t

/-- R23, R224: every order of transactions, once the core has been reset, leads to a state with the invariant; none
of them stops. -/
def Obligations.EveryRunStaysInInvariant : Prop :=
  ∀ ts : List Transaction, ∃ t, transactAll (.reset :: ts) none = .next (some t) ∧ GoodState t

/-- R35 (decision D3): no step clears a bit of `ERR` or sets its reserved bit. -/
def Obligations.ErrBitsAreSticky : Prop :=
  ∀ s t : State, step s = .next t →
    (∀ k, k < 8 → s.err.getLsbD k = true → t.err.getLsbD k = true) ∧ t.err.getLsbD 7 = s.err.getLsbD 7

/-- R35, decision D2: a run that ends with `ERR` = 0 reported no error in any of its steps, and began with `ERR` = 0.
-/
def Obligations.CleanErrMeansNoErrorReported : Prop :=
  ∀ (n : Nat) (s t : State), core.run n s = .next t → NoError t → NoError s ∧ t.events = s.events

/-- R24, R26, R28 to R32, R52: which instructions write which part of the state; every other instruction leaves that
part as it was, and no instruction writes the keys. -/
def Obligations.OnlyNamedInstructionsWrite : Prop :=
  ∀ (i : Instr) (s t : State), exec i s = .next t →
    (∀ k, t.key k = s.key k) ∧
    ((∀ x, i ≠ .ldB x ∧ i ≠ .ldMemVx x) → ∀ a, t.mem.read a = s.mem.read a) ∧
    ((∀ nnn, i ≠ .call nnn) → ∀ k, t.stackEntry k = s.stackEntry k) ∧
    ((i ≠ .cls ∧ ∀ x y n, i ≠ .drw x y n) →
      (∀ col row, t.disp.pixel col row = s.disp.pixel col row) ∧ t.dirty = s.dirty) ∧
    ((∀ x, i ≠ .ldDtVx x) → t.dt = s.dt) ∧
    ((∀ x, i ≠ .ldStVx x) → t.st = s.st) ∧
    ((∀ nnn, i ≠ .ldI nnn) → (∀ x, i ≠ .addI x ∧ i ≠ .ldF x ∧ i ≠ .ldMemVx x ∧ i ≠ .ldVxMem x) →
      t.index = s.index)
end

