-- ==== Sys2Proof/Laws/State.lean ====
section
/-!
SUPPORT. What each update of the state does to each field: one lemma per field per update, true by definition, so
that no proof unfolds a record update.
-/

namespace Sys2Proof.Machine

open Sys2Proof

variable (s : State)

/-! ### `setReg` -/

@[simp] theorem State.setReg_regs (r : RegIdx) (v : Byte) : (s.setReg r v).regs = s.regs.set r v := rfl
@[simp] theorem State.setReg_index (r : RegIdx) (v : Byte) : (s.setReg r v).index = s.index := rfl
@[simp] theorem State.setReg_pc (r : RegIdx) (v : Byte) : (s.setReg r v).pc = s.pc := rfl
@[simp] theorem State.setReg_sp (r : RegIdx) (v : Byte) : (s.setReg r v).sp = s.sp := rfl
@[simp] theorem State.setReg_stack (r : RegIdx) (v : Byte) : (s.setReg r v).stack = s.stack := rfl
@[simp] theorem State.setReg_dt (r : RegIdx) (v : Byte) : (s.setReg r v).dt = s.dt := rfl
@[simp] theorem State.setReg_st (r : RegIdx) (v : Byte) : (s.setReg r v).st = s.st := rfl
@[simp] theorem State.setReg_disp (r : RegIdx) (v : Byte) : (s.setReg r v).disp = s.disp := rfl
@[simp] theorem State.setReg_dirty (r : RegIdx) (v : Byte) : (s.setReg r v).dirty = s.dirty := rfl
@[simp] theorem State.setReg_keys (r : RegIdx) (v : Byte) : (s.setReg r v).keys = s.keys := rfl
@[simp] theorem State.setReg_mem (r : RegIdx) (v : Byte) : (s.setReg r v).mem = s.mem := rfl
@[simp] theorem State.setReg_err (r : RegIdx) (v : Byte) : (s.setReg r v).err = s.err := rfl
@[simp] theorem State.setReg_events (r : RegIdx) (v : Byte) : (s.setReg r v).events = s.events := rfl
@[simp] theorem State.setReg_draws (r : RegIdx) (v : Byte) : (s.setReg r v).draws = s.draws := rfl

/-! ### `setFlag` -/

@[simp] theorem State.setFlag_regs (b : Bool) : (s.setFlag b).regs = s.regs.set (0xF : RegIdx) (flagByte b) := rfl
@[simp] theorem State.setFlag_index (b : Bool) : (s.setFlag b).index = s.index := rfl
@[simp] theorem State.setFlag_pc (b : Bool) : (s.setFlag b).pc = s.pc := rfl
@[simp] theorem State.setFlag_sp (b : Bool) : (s.setFlag b).sp = s.sp := rfl
@[simp] theorem State.setFlag_stack (b : Bool) : (s.setFlag b).stack = s.stack := rfl
@[simp] theorem State.setFlag_dt (b : Bool) : (s.setFlag b).dt = s.dt := rfl
@[simp] theorem State.setFlag_st (b : Bool) : (s.setFlag b).st = s.st := rfl
@[simp] theorem State.setFlag_disp (b : Bool) : (s.setFlag b).disp = s.disp := rfl
@[simp] theorem State.setFlag_dirty (b : Bool) : (s.setFlag b).dirty = s.dirty := rfl
@[simp] theorem State.setFlag_keys (b : Bool) : (s.setFlag b).keys = s.keys := rfl
@[simp] theorem State.setFlag_mem (b : Bool) : (s.setFlag b).mem = s.mem := rfl
@[simp] theorem State.setFlag_err (b : Bool) : (s.setFlag b).err = s.err := rfl
@[simp] theorem State.setFlag_events (b : Bool) : (s.setFlag b).events = s.events := rfl
@[simp] theorem State.setFlag_draws (b : Bool) : (s.setFlag b).draws = s.draws := rfl

/-! ### `setIndex` -/

@[simp] theorem State.setIndex_regs (v : Word) : (s.setIndex v).regs = s.regs := rfl
@[simp] theorem State.setIndex_index (v : Word) : (s.setIndex v).index = v := rfl
@[simp] theorem State.setIndex_pc (v : Word) : (s.setIndex v).pc = s.pc := rfl
@[simp] theorem State.setIndex_sp (v : Word) : (s.setIndex v).sp = s.sp := rfl
@[simp] theorem State.setIndex_stack (v : Word) : (s.setIndex v).stack = s.stack := rfl
@[simp] theorem State.setIndex_dt (v : Word) : (s.setIndex v).dt = s.dt := rfl
@[simp] theorem State.setIndex_st (v : Word) : (s.setIndex v).st = s.st := rfl
@[simp] theorem State.setIndex_disp (v : Word) : (s.setIndex v).disp = s.disp := rfl
@[simp] theorem State.setIndex_dirty (v : Word) : (s.setIndex v).dirty = s.dirty := rfl
@[simp] theorem State.setIndex_keys (v : Word) : (s.setIndex v).keys = s.keys := rfl
@[simp] theorem State.setIndex_mem (v : Word) : (s.setIndex v).mem = s.mem := rfl
@[simp] theorem State.setIndex_err (v : Word) : (s.setIndex v).err = s.err := rfl
@[simp] theorem State.setIndex_events (v : Word) : (s.setIndex v).events = s.events := rfl
@[simp] theorem State.setIndex_draws (v : Word) : (s.setIndex v).draws = s.draws := rfl

/-! ### `setPc` -/

@[simp] theorem State.setPc_regs (v : Word) : (s.setPc v).regs = s.regs := rfl
@[simp] theorem State.setPc_index (v : Word) : (s.setPc v).index = s.index := rfl
@[simp] theorem State.setPc_pc (v : Word) : (s.setPc v).pc = v := rfl
@[simp] theorem State.setPc_sp (v : Word) : (s.setPc v).sp = s.sp := rfl
@[simp] theorem State.setPc_stack (v : Word) : (s.setPc v).stack = s.stack := rfl
@[simp] theorem State.setPc_dt (v : Word) : (s.setPc v).dt = s.dt := rfl
@[simp] theorem State.setPc_st (v : Word) : (s.setPc v).st = s.st := rfl
@[simp] theorem State.setPc_disp (v : Word) : (s.setPc v).disp = s.disp := rfl
@[simp] theorem State.setPc_dirty (v : Word) : (s.setPc v).dirty = s.dirty := rfl
@[simp] theorem State.setPc_keys (v : Word) : (s.setPc v).keys = s.keys := rfl
@[simp] theorem State.setPc_mem (v : Word) : (s.setPc v).mem = s.mem := rfl
@[simp] theorem State.setPc_err (v : Word) : (s.setPc v).err = s.err := rfl
@[simp] theorem State.setPc_events (v : Word) : (s.setPc v).events = s.events := rfl
@[simp] theorem State.setPc_draws (v : Word) : (s.setPc v).draws = s.draws := rfl

/-! ### `advance` -/

@[simp] theorem State.advance_regs : s.advance.regs = s.regs := rfl
@[simp] theorem State.advance_index : s.advance.index = s.index := rfl
@[simp] theorem State.advance_pc : s.advance.pc = s.pc + 2 := rfl
@[simp] theorem State.advance_sp : s.advance.sp = s.sp := rfl
@[simp] theorem State.advance_stack : s.advance.stack = s.stack := rfl
@[simp] theorem State.advance_dt : s.advance.dt = s.dt := rfl
@[simp] theorem State.advance_st : s.advance.st = s.st := rfl
@[simp] theorem State.advance_disp : s.advance.disp = s.disp := rfl
@[simp] theorem State.advance_dirty : s.advance.dirty = s.dirty := rfl
@[simp] theorem State.advance_keys : s.advance.keys = s.keys := rfl
@[simp] theorem State.advance_mem : s.advance.mem = s.mem := rfl
@[simp] theorem State.advance_err : s.advance.err = s.err := rfl
@[simp] theorem State.advance_events : s.advance.events = s.events := rfl
@[simp] theorem State.advance_draws : s.advance.draws = s.draws := rfl

/-! ### `skipIf` -/

@[simp] theorem State.skipIf_regs (c : Bool) : (s.skipIf c).regs = s.regs := rfl
@[simp] theorem State.skipIf_index (c : Bool) : (s.skipIf c).index = s.index := rfl
@[simp] theorem State.skipIf_pc (c : Bool) : (s.skipIf c).pc = if c then s.pc + 4 else s.pc + 2 := rfl
@[simp] theorem State.skipIf_sp (c : Bool) : (s.skipIf c).sp = s.sp := rfl
@[simp] theorem State.skipIf_stack (c : Bool) : (s.skipIf c).stack = s.stack := rfl
@[simp] theorem State.skipIf_dt (c : Bool) : (s.skipIf c).dt = s.dt := rfl
@[simp] theorem State.skipIf_st (c : Bool) : (s.skipIf c).st = s.st := rfl
@[simp] theorem State.skipIf_disp (c : Bool) : (s.skipIf c).disp = s.disp := rfl
@[simp] theorem State.skipIf_dirty (c : Bool) : (s.skipIf c).dirty = s.dirty := rfl
@[simp] theorem State.skipIf_keys (c : Bool) : (s.skipIf c).keys = s.keys := rfl
@[simp] theorem State.skipIf_mem (c : Bool) : (s.skipIf c).mem = s.mem := rfl
@[simp] theorem State.skipIf_err (c : Bool) : (s.skipIf c).err = s.err := rfl
@[simp] theorem State.skipIf_events (c : Bool) : (s.skipIf c).events = s.events := rfl
@[simp] theorem State.skipIf_draws (c : Bool) : (s.skipIf c).draws = s.draws := rfl

/-! ### `push` -/

@[simp] theorem State.push_regs (a : Word) (h : s.sp.val < 16) : (s.push a h).regs = s.regs := rfl
@[simp] theorem State.push_index (a : Word) (h : s.sp.val < 16) : (s.push a h).index = s.index := rfl
@[simp] theorem State.push_pc (a : Word) (h : s.sp.val < 16) : (s.push a h).pc = s.pc := rfl
@[simp] theorem State.push_sp (a : Word) (h : s.sp.val < 16) : (s.push a h).sp = ⟨s.sp.val + 1, by omega⟩ := rfl
@[simp] theorem State.push_stack (a : Word) (h : s.sp.val < 16) : (s.push a h).stack = s.stack.set s.sp.val a := rfl
@[simp] theorem State.push_dt (a : Word) (h : s.sp.val < 16) : (s.push a h).dt = s.dt := rfl
@[simp] theorem State.push_st (a : Word) (h : s.sp.val < 16) : (s.push a h).st = s.st := rfl
@[simp] theorem State.push_disp (a : Word) (h : s.sp.val < 16) : (s.push a h).disp = s.disp := rfl
@[simp] theorem State.push_dirty (a : Word) (h : s.sp.val < 16) : (s.push a h).dirty = s.dirty := rfl
@[simp] theorem State.push_keys (a : Word) (h : s.sp.val < 16) : (s.push a h).keys = s.keys := rfl
@[simp] theorem State.push_mem (a : Word) (h : s.sp.val < 16) : (s.push a h).mem = s.mem := rfl
@[simp] theorem State.push_err (a : Word) (h : s.sp.val < 16) : (s.push a h).err = s.err := rfl
@[simp] theorem State.push_events (a : Word) (h : s.sp.val < 16) : (s.push a h).events = s.events := rfl
@[simp] theorem State.push_draws (a : Word) (h : s.sp.val < 16) : (s.push a h).draws = s.draws := rfl

/-! ### `pop` -/

@[simp] theorem State.pop_regs : s.pop.regs = s.regs := rfl
@[simp] theorem State.pop_index : s.pop.index = s.index := rfl
@[simp] theorem State.pop_pc : s.pop.pc = s.pc := rfl
@[simp] theorem State.pop_sp : s.pop.sp = ⟨s.sp.val - 1, by omega⟩ := rfl
@[simp] theorem State.pop_stack : s.pop.stack = s.stack := rfl
@[simp] theorem State.pop_dt : s.pop.dt = s.dt := rfl
@[simp] theorem State.pop_st : s.pop.st = s.st := rfl
@[simp] theorem State.pop_disp : s.pop.disp = s.disp := rfl
@[simp] theorem State.pop_dirty : s.pop.dirty = s.dirty := rfl
@[simp] theorem State.pop_keys : s.pop.keys = s.keys := rfl
@[simp] theorem State.pop_mem : s.pop.mem = s.mem := rfl
@[simp] theorem State.pop_err : s.pop.err = s.err := rfl
@[simp] theorem State.pop_events : s.pop.events = s.events := rfl
@[simp] theorem State.pop_draws : s.pop.draws = s.draws := rfl

/-! ### `setDt` -/

@[simp] theorem State.setDt_regs (v : Byte) : (s.setDt v).regs = s.regs := rfl
@[simp] theorem State.setDt_index (v : Byte) : (s.setDt v).index = s.index := rfl
@[simp] theorem State.setDt_pc (v : Byte) : (s.setDt v).pc = s.pc := rfl
@[simp] theorem State.setDt_sp (v : Byte) : (s.setDt v).sp = s.sp := rfl
@[simp] theorem State.setDt_stack (v : Byte) : (s.setDt v).stack = s.stack := rfl
@[simp] theorem State.setDt_dt (v : Byte) : (s.setDt v).dt = v := rfl
@[simp] theorem State.setDt_st (v : Byte) : (s.setDt v).st = s.st := rfl
@[simp] theorem State.setDt_disp (v : Byte) : (s.setDt v).disp = s.disp := rfl
@[simp] theorem State.setDt_dirty (v : Byte) : (s.setDt v).dirty = s.dirty := rfl
@[simp] theorem State.setDt_keys (v : Byte) : (s.setDt v).keys = s.keys := rfl
@[simp] theorem State.setDt_mem (v : Byte) : (s.setDt v).mem = s.mem := rfl
@[simp] theorem State.setDt_err (v : Byte) : (s.setDt v).err = s.err := rfl
@[simp] theorem State.setDt_events (v : Byte) : (s.setDt v).events = s.events := rfl
@[simp] theorem State.setDt_draws (v : Byte) : (s.setDt v).draws = s.draws := rfl

/-! ### `setSt` -/

@[simp] theorem State.setSt_regs (v : Byte) : (s.setSt v).regs = s.regs := rfl
@[simp] theorem State.setSt_index (v : Byte) : (s.setSt v).index = s.index := rfl
@[simp] theorem State.setSt_pc (v : Byte) : (s.setSt v).pc = s.pc := rfl
@[simp] theorem State.setSt_sp (v : Byte) : (s.setSt v).sp = s.sp := rfl
@[simp] theorem State.setSt_stack (v : Byte) : (s.setSt v).stack = s.stack := rfl
@[simp] theorem State.setSt_dt (v : Byte) : (s.setSt v).dt = s.dt := rfl
@[simp] theorem State.setSt_st (v : Byte) : (s.setSt v).st = v := rfl
@[simp] theorem State.setSt_disp (v : Byte) : (s.setSt v).disp = s.disp := rfl
@[simp] theorem State.setSt_dirty (v : Byte) : (s.setSt v).dirty = s.dirty := rfl
@[simp] theorem State.setSt_keys (v : Byte) : (s.setSt v).keys = s.keys := rfl
@[simp] theorem State.setSt_mem (v : Byte) : (s.setSt v).mem = s.mem := rfl
@[simp] theorem State.setSt_err (v : Byte) : (s.setSt v).err = s.err := rfl
@[simp] theorem State.setSt_events (v : Byte) : (s.setSt v).events = s.events := rfl
@[simp] theorem State.setSt_draws (v : Byte) : (s.setSt v).draws = s.draws := rfl

/-! ### `setDisplay` -/

@[simp] theorem State.setDisplay_regs (d : Display) (b : Bool) : (s.setDisplay d b).regs = s.regs := rfl
@[simp] theorem State.setDisplay_index (d : Display) (b : Bool) : (s.setDisplay d b).index = s.index := rfl
@[simp] theorem State.setDisplay_pc (d : Display) (b : Bool) : (s.setDisplay d b).pc = s.pc := rfl
@[simp] theorem State.setDisplay_sp (d : Display) (b : Bool) : (s.setDisplay d b).sp = s.sp := rfl
@[simp] theorem State.setDisplay_stack (d : Display) (b : Bool) : (s.setDisplay d b).stack = s.stack := rfl
@[simp] theorem State.setDisplay_dt (d : Display) (b : Bool) : (s.setDisplay d b).dt = s.dt := rfl
@[simp] theorem State.setDisplay_st (d : Display) (b : Bool) : (s.setDisplay d b).st = s.st := rfl
@[simp] theorem State.setDisplay_disp (d : Display) (b : Bool) : (s.setDisplay d b).disp = d := rfl
@[simp] theorem State.setDisplay_dirty (d : Display) (b : Bool) : (s.setDisplay d b).dirty = b := rfl
@[simp] theorem State.setDisplay_keys (d : Display) (b : Bool) : (s.setDisplay d b).keys = s.keys := rfl
@[simp] theorem State.setDisplay_mem (d : Display) (b : Bool) : (s.setDisplay d b).mem = s.mem := rfl
@[simp] theorem State.setDisplay_err (d : Display) (b : Bool) : (s.setDisplay d b).err = s.err := rfl
@[simp] theorem State.setDisplay_events (d : Display) (b : Bool) : (s.setDisplay d b).events = s.events := rfl
@[simp] theorem State.setDisplay_draws (d : Display) (b : Bool) : (s.setDisplay d b).draws = s.draws := rfl

/-! ### `setMem` -/

@[simp] theorem State.setMem_regs (m : Memory) : (s.setMem m).regs = s.regs := rfl
@[simp] theorem State.setMem_index (m : Memory) : (s.setMem m).index = s.index := rfl
@[simp] theorem State.setMem_pc (m : Memory) : (s.setMem m).pc = s.pc := rfl
@[simp] theorem State.setMem_sp (m : Memory) : (s.setMem m).sp = s.sp := rfl
@[simp] theorem State.setMem_stack (m : Memory) : (s.setMem m).stack = s.stack := rfl
@[simp] theorem State.setMem_dt (m : Memory) : (s.setMem m).dt = s.dt := rfl
@[simp] theorem State.setMem_st (m : Memory) : (s.setMem m).st = s.st := rfl
@[simp] theorem State.setMem_disp (m : Memory) : (s.setMem m).disp = s.disp := rfl
@[simp] theorem State.setMem_dirty (m : Memory) : (s.setMem m).dirty = s.dirty := rfl
@[simp] theorem State.setMem_keys (m : Memory) : (s.setMem m).keys = s.keys := rfl
@[simp] theorem State.setMem_mem (m : Memory) : (s.setMem m).mem = m := rfl
@[simp] theorem State.setMem_err (m : Memory) : (s.setMem m).err = s.err := rfl
@[simp] theorem State.setMem_events (m : Memory) : (s.setMem m).events = s.events := rfl
@[simp] theorem State.setMem_draws (m : Memory) : (s.setMem m).draws = s.draws := rfl

/-! ### `setErr` -/

@[simp] theorem State.setErr_regs (v : BitVec 8) : (s.setErr v).regs = s.regs := rfl
@[simp] theorem State.setErr_index (v : BitVec 8) : (s.setErr v).index = s.index := rfl
@[simp] theorem State.setErr_pc (v : BitVec 8) : (s.setErr v).pc = s.pc := rfl
@[simp] theorem State.setErr_sp (v : BitVec 8) : (s.setErr v).sp = s.sp := rfl
@[simp] theorem State.setErr_stack (v : BitVec 8) : (s.setErr v).stack = s.stack := rfl
@[simp] theorem State.setErr_dt (v : BitVec 8) : (s.setErr v).dt = s.dt := rfl
@[simp] theorem State.setErr_st (v : BitVec 8) : (s.setErr v).st = s.st := rfl
@[simp] theorem State.setErr_disp (v : BitVec 8) : (s.setErr v).disp = s.disp := rfl
@[simp] theorem State.setErr_dirty (v : BitVec 8) : (s.setErr v).dirty = s.dirty := rfl
@[simp] theorem State.setErr_keys (v : BitVec 8) : (s.setErr v).keys = s.keys := rfl
@[simp] theorem State.setErr_mem (v : BitVec 8) : (s.setErr v).mem = s.mem := rfl
@[simp] theorem State.setErr_err (v : BitVec 8) : (s.setErr v).err = v := rfl
@[simp] theorem State.setErr_events (v : BitVec 8) : (s.setErr v).events = s.events := rfl
@[simp] theorem State.setErr_draws (v : BitVec 8) : (s.setErr v).draws = s.draws := rfl

/-! ### `emit` -/

@[simp] theorem State.emit_regs (e : Event) : (s.emit e).regs = s.regs := rfl
@[simp] theorem State.emit_index (e : Event) : (s.emit e).index = s.index := rfl
@[simp] theorem State.emit_pc (e : Event) : (s.emit e).pc = s.pc := rfl
@[simp] theorem State.emit_sp (e : Event) : (s.emit e).sp = s.sp := rfl
@[simp] theorem State.emit_stack (e : Event) : (s.emit e).stack = s.stack := rfl
@[simp] theorem State.emit_dt (e : Event) : (s.emit e).dt = s.dt := rfl
@[simp] theorem State.emit_st (e : Event) : (s.emit e).st = s.st := rfl
@[simp] theorem State.emit_disp (e : Event) : (s.emit e).disp = s.disp := rfl
@[simp] theorem State.emit_dirty (e : Event) : (s.emit e).dirty = s.dirty := rfl
@[simp] theorem State.emit_keys (e : Event) : (s.emit e).keys = s.keys := rfl
@[simp] theorem State.emit_mem (e : Event) : (s.emit e).mem = s.mem := rfl
@[simp] theorem State.emit_err (e : Event) : (s.emit e).err = s.err := rfl
@[simp] theorem State.emit_events (e : Event) : (s.emit e).events = e :: s.events := rfl
@[simp] theorem State.emit_draws (e : Event) : (s.emit e).draws = s.draws := rfl

/-! ### `nextDraw` -/

@[simp] theorem State.nextDraw_regs : s.nextDraw.regs = s.regs := rfl
@[simp] theorem State.nextDraw_index : s.nextDraw.index = s.index := rfl
@[simp] theorem State.nextDraw_pc : s.nextDraw.pc = s.pc := rfl
@[simp] theorem State.nextDraw_sp : s.nextDraw.sp = s.sp := rfl
@[simp] theorem State.nextDraw_stack : s.nextDraw.stack = s.stack := rfl
@[simp] theorem State.nextDraw_dt : s.nextDraw.dt = s.dt := rfl
@[simp] theorem State.nextDraw_st : s.nextDraw.st = s.st := rfl
@[simp] theorem State.nextDraw_disp : s.nextDraw.disp = s.disp := rfl
@[simp] theorem State.nextDraw_dirty : s.nextDraw.dirty = s.dirty := rfl
@[simp] theorem State.nextDraw_keys : s.nextDraw.keys = s.keys := rfl
@[simp] theorem State.nextDraw_mem : s.nextDraw.mem = s.mem := rfl
@[simp] theorem State.nextDraw_err : s.nextDraw.err = s.err := rfl
@[simp] theorem State.nextDraw_events : s.nextDraw.events = s.events := rfl
@[simp] theorem State.nextDraw_draws : s.nextDraw.draws = s.draws + 1 := rfl

/-! ### `setKey` -/

@[simp] theorem setKey_regs (k : Key) (b : Bool) : (setKey k b s).regs = s.regs := rfl
@[simp] theorem setKey_index (k : Key) (b : Bool) : (setKey k b s).index = s.index := rfl
@[simp] theorem setKey_pc (k : Key) (b : Bool) : (setKey k b s).pc = s.pc := rfl
@[simp] theorem setKey_sp (k : Key) (b : Bool) : (setKey k b s).sp = s.sp := rfl
@[simp] theorem setKey_stack (k : Key) (b : Bool) : (setKey k b s).stack = s.stack := rfl
@[simp] theorem setKey_dt (k : Key) (b : Bool) : (setKey k b s).dt = s.dt := rfl
@[simp] theorem setKey_st (k : Key) (b : Bool) : (setKey k b s).st = s.st := rfl
@[simp] theorem setKey_disp (k : Key) (b : Bool) : (setKey k b s).disp = s.disp := rfl
@[simp] theorem setKey_dirty (k : Key) (b : Bool) : (setKey k b s).dirty = s.dirty := rfl
@[simp] theorem setKey_keys (k : Key) (b : Bool) : (setKey k b s).keys = s.keys.set k b := rfl
@[simp] theorem setKey_mem (k : Key) (b : Bool) : (setKey k b s).mem = s.mem := rfl
@[simp] theorem setKey_err (k : Key) (b : Bool) : (setKey k b s).err = s.err := rfl
@[simp] theorem setKey_events (k : Key) (b : Bool) : (setKey k b s).events = s.events := rfl
@[simp] theorem setKey_draws (k : Key) (b : Bool) : (setKey k b s).draws = s.draws := rfl

/-! ### `raise` -/

@[simp] theorem raise_regs (c : Cause) (w : Option Word) : (raise c w s).regs = s.regs := by cases c <;> rfl
@[simp] theorem raise_index (c : Cause) (w : Option Word) : (raise c w s).index = s.index := by cases c <;> rfl
theorem raise_pc (c : Cause) (w : Option Word) :
    (raise c w s).pc = if c = .fetchRange then s.pc else s.pc + 2 := by cases c <;> rfl
@[simp] theorem raise_sp (c : Cause) (w : Option Word) : (raise c w s).sp = s.sp := by cases c <;> rfl
@[simp] theorem raise_stack (c : Cause) (w : Option Word) : (raise c w s).stack = s.stack := by cases c <;> rfl
@[simp] theorem raise_dt (c : Cause) (w : Option Word) : (raise c w s).dt = s.dt := by cases c <;> rfl
@[simp] theorem raise_st (c : Cause) (w : Option Word) : (raise c w s).st = s.st := by cases c <;> rfl
@[simp] theorem raise_disp (c : Cause) (w : Option Word) : (raise c w s).disp = s.disp := by cases c <;> rfl
@[simp] theorem raise_dirty (c : Cause) (w : Option Word) : (raise c w s).dirty = s.dirty := by cases c <;> rfl
@[simp] theorem raise_keys (c : Cause) (w : Option Word) : (raise c w s).keys = s.keys := by cases c <;> rfl
@[simp] theorem raise_mem (c : Cause) (w : Option Word) : (raise c w s).mem = s.mem := by cases c <;> rfl
@[simp] theorem raise_err (c : Cause) (w : Option Word) : (raise c w s).err = latch s.err c := by cases c <;> rfl
@[simp] theorem raise_events (c : Cause) (w : Option Word) : (raise c w s).events = .error c s.pc w :: s.events := by cases c <;> rfl
@[simp] theorem raise_draws (c : Cause) (w : Option Word) : (raise c w s).draws = s.draws := by cases c <;> rfl

/-! ### `resetAgain` -/

@[simp] theorem resetAgain_events : (resetAgain s).events = s.events := rfl
@[simp] theorem resetAgain_draws : (resetAgain s).draws = s.draws := rfl
@[simp] theorem resetAgain_mem : (resetAgain s).mem = [] := rfl
@[simp] theorem resetAgain_pc : (resetAgain s).pc = 0x200 := rfl
@[simp] theorem resetAgain_sp : (resetAgain s).sp = 0 := rfl
@[simp] theorem resetAgain_err : (resetAgain s).err = 0 := rfl

end Sys2Proof.Machine
end

