-- ==== Sys2Proof/Laws/Display.lean ====
section
/-!
SUPPORT. What plotting does to each pixel, to `collide` and to `changed` (R143, R144).
-/

namespace Sys2Proof.Machine

open Sys2Proof

@[simp] theorem Display.pixel_blank (col : Fin 64) (row : Fin 32) : Display.blank.pixel col row = false := by
  simp [Display.pixel, Display.blank]

/-- A toggled pixel is inverted, every other one kept. -/
theorem Display.pixel_toggle (d : Display) (c col : Fin 64) (r row : Fin 32) :
    (d.toggle c r).pixel col row = if col = c ∧ row = r then !d.pixel c r else d.pixel col row := by
  simp only [Display.pixel, Display.toggle, Fin.getElem_fin, Vector.getElem_set]
  by_cases hr : row = r
  · subst hr
    by_cases hc : col = c
    · subst hc
      simp
    · have : ¬ c.val = col.val := fun h => hc (Fin.ext h.symm)
      simp [this, hc]
  · have : ¬ r.val = row.val := fun h => hr (Fin.ext h.symm)
    simp [this, hr]

/-- Two displays with the same pixels are the same. -/
theorem Display.ext_pixel {d e : Display} (h : ∀ col row, d.pixel col row = e.pixel col row) : d = e := by
  apply Vector.ext
  intro i hi
  apply Vector.ext
  intro j hj
  exact h ⟨j, hj⟩ ⟨i, hi⟩

/-- What the plots so far have done to a display, where `hit` says which pixels a set bit landed on: those are
inverted, `collide` says whether one of them was lit, `changed` whether there is one. -/
structure Drawing.Did (d e : Drawing) (hit : Fin 64 → Fin 32 → Prop) : Prop where
  inverted : ∀ col row, hit col row → e.disp.pixel col row = !d.disp.pixel col row
  kept : ∀ col row, ¬ hit col row → e.disp.pixel col row = d.disp.pixel col row
  collide : e.collide = true ↔ d.collide = true ∨ ∃ col row, hit col row ∧ d.disp.pixel col row = true
  changed : e.changed = true ↔ d.changed = true ∨ ∃ col row, hit col row

/-- Nothing plotted, nothing done. -/
theorem Drawing.Did.refl (d : Drawing) : d.Did d fun _ _ => False := by
  constructor <;> simp

/-- Plots on disjoint pixels add up. -/
theorem Drawing.Did.trans {d e f : Drawing} {p q : Fin 64 → Fin 32 → Prop} (h : d.Did e p) (h' : e.Did f q)
    (disjoint : ∀ col row, p col row → ¬ q col row) : d.Did f fun col row => p col row ∨ q col row := by
  constructor
  · rintro col row (hp | hq)
    · rw [h'.kept _ _ (disjoint _ _ hp), h.inverted _ _ hp]
    · rw [h'.inverted _ _ hq, h.kept _ _ fun hp => disjoint _ _ hp hq]
  · intro col row hn
    rw [h'.kept _ _ fun hq => hn (.inr hq), h.kept _ _ fun hp => hn (.inl hp)]
  · rw [h'.collide, h.collide]
    constructor
    · rintro ((hc | ⟨c, r, hp, hl⟩) | ⟨c, r, hq, hl⟩)
      · exact .inl hc
      · exact .inr ⟨c, r, .inl hp, hl⟩
      · rw [h.kept _ _ fun hp => disjoint _ _ hp hq] at hl
        exact .inr ⟨c, r, .inr hq, hl⟩
    · rintro (hc | ⟨c, r, hp | hq, hl⟩)
      · exact .inl (.inl hc)
      · exact .inl (.inr ⟨c, r, hp, hl⟩)
      · rw [← h.kept _ _ fun hp => disjoint _ _ hp hq] at hl
        exact .inr ⟨c, r, hq, hl⟩
  · rw [h'.changed, h.changed]
    constructor
    · rintro ((hc | ⟨c, r, hp⟩) | ⟨c, r, hq⟩)
      · exact .inl hc
      · exact .inr ⟨c, r, .inl hp⟩
      · exact .inr ⟨c, r, .inr hq⟩
    · rintro (hc | ⟨c, r, hp | hq⟩)
      · exact .inl (.inl hc)
      · exact .inl (.inr ⟨c, r, hp⟩)
      · exact .inr ⟨c, r, hq⟩

theorem Drawing.Did.congr {d e : Drawing} {p q : Fin 64 → Fin 32 → Prop} (h : d.Did e p)
    (hpq : ∀ col row, p col row ↔ q col row) : d.Did e q := by
  have : p = q := funext fun c => funext fun r => propext (hpq c r)
  exact this ▸ h

/-- One plot hits its pixel if it is on the display, and is dropped otherwise (R143). -/
theorem Drawing.plot_did (d : Drawing) (c r : Nat) :
    d.Did (d.plot c r) fun col row => col.val = c ∧ row.val = r := by
  unfold Drawing.plot
  split
  · rename_i h
    constructor
    · rintro col row ⟨rfl, rfl⟩
      simp [Display.pixel_toggle]
    · intro col row hn
      simp only [Display.pixel_toggle]
      rw [if_neg]
      rintro ⟨rfl, rfl⟩
      exact hn ⟨rfl, rfl⟩
    · simp only [Bool.or_eq_true]
      constructor
      · rintro (hc | hl)
        · exact .inl hc
        · exact .inr ⟨_, _, ⟨rfl, rfl⟩, hl⟩
      · rintro (hc | ⟨⟨_, _⟩, ⟨_, _⟩, ⟨rfl, rfl⟩, hl⟩)
        · exact .inl hc
        · exact .inr hl
    · simp only [true_iff]
      exact .inr ⟨⟨c, h.1⟩, ⟨r, h.2⟩, rfl, rfl⟩
  · rename_i h
    refine (Drawing.Did.refl d).congr fun col row => ⟨False.elim, ?_⟩
    rintro ⟨rfl, rfl⟩
    exact h ⟨col.isLt, row.isLt⟩

/-- One bit of a sprite row plots its pixel if it is set (R143, R144). -/
theorem Drawing.plotBit_did (b : Byte) (x0 y : Nat) (d : Drawing) (c : Nat) :
    d.Did (Drawing.plotBit b x0 y d c) fun col row =>
      row.val = y ∧ col.val = x0 + c ∧ b.getLsbD (7 - c) = true := by
  unfold Drawing.plotBit
  split
  · rename_i h
    refine (d.plot_did (x0 + c) y).congr fun col row => ⟨fun h' => ⟨h'.2, h'.1, h⟩, fun h' => ⟨h'.2.1, h'.1⟩⟩
  · rename_i h
    exact (Drawing.Did.refl d).congr fun col row => ⟨False.elim, fun h' => h h'.2.2⟩

/-- The first m pixels of a sprite row. -/
theorem Drawing.plotBits_did (b : Byte) (x0 y m : Nat) (d : Drawing) :
    d.Did ((List.range m).foldl (Drawing.plotBit b x0 y) d) fun col row =>
      row.val = y ∧ ∃ c, c < m ∧ col.val = x0 + c ∧ b.getLsbD (7 - c) = true := by
  induction m with
  | zero => exact (Drawing.Did.refl d).congr fun col row => by simp
  | succ m ih =>
    rw [List.range_succ, List.foldl_append]
    refine (ih.trans (Drawing.plotBit_did b x0 y _ m) ?_).congr fun col row => ?_
    · rintro col row ⟨_, c, hc, h, _⟩ ⟨_, h', _⟩
      omega
    · constructor
      · rintro (⟨hy, c, hc, h⟩ | ⟨hy, h⟩)
        · exact ⟨hy, c, by omega, h⟩
        · exact ⟨hy, m, by omega, h⟩
      · rintro ⟨hy, c, hc, h⟩
        rcases Nat.lt_succ_iff_lt_or_eq.1 hc with hc | rfl
        · exact .inl ⟨hy, c, hc, h⟩
        · exact .inr ⟨hy, h⟩

/-- A sprite's rows: row k lands on display row y + k, its pixel c on column x0 + c (R143). -/
theorem Drawing.plotRows_did (bs : List Byte) (x0 y : Nat) (d : Drawing) :
    d.Did (d.plotRows bs x0 y) fun col row =>
      ∃ k c, ∃ h : k < bs.length, c < 8 ∧ row.val = y + k ∧ col.val = x0 + c ∧ bs[k].getLsbD (7 - c) = true := by
  induction bs generalizing d y with
  | nil => exact (Drawing.Did.refl d).congr fun col row => by simp
  | cons b bs ih =>
    refine ((Drawing.plotBits_did b x0 y 8 d).trans (ih (y + 1) _) ?_).congr fun col row => ?_
    · rintro col row ⟨h, _⟩ ⟨k, _, _, _, h', _⟩
      omega
    · constructor
      · rintro (⟨hy, c, hc, hx, hb⟩ | ⟨k, c, hk, hc, hy, hx, hb⟩)
        · exact ⟨0, c, by simp, hc, hy, hx, hb⟩
        · exact ⟨k + 1, c, by simpa using hk, hc, by omega, hx, hb⟩
      · rintro ⟨k, c, hk, hc, hy, hx, hb⟩
        cases k with
        | zero => exact .inl ⟨hy, c, hc, hx, hb⟩
        | succ k => exact .inr ⟨k, c, by simpa using hk, hc, by omega, hx, hb⟩

end Sys2Proof.Machine
end

