-- ==== Sys2Proof/Laws/Encoding.lean ====
section
/-!
SUPPORT. The fields of a packed word, and a word as a number: one lemma per field per format (R71).
-/

namespace Sys2Proof

/-! ### Fields as numbers -/

theorem fieldOp_toNat (w : Word) : (fieldOp w).toNat = w.toNat / 0x1000 := by
  have := w.isLt
  simp only [fieldOp, BitVec.extractLsb'_toNat, Nat.shiftRight_eq_div_pow]
  omega

theorem fieldX_val (w : Word) : (fieldX w).val = w.toNat / 0x100 % 16 := by
  show (BitVec.extractLsb' 8 4 w).toNat = _
  simp only [BitVec.extractLsb'_toNat, Nat.shiftRight_eq_div_pow]

theorem fieldY_val (w : Word) : (fieldY w).val = w.toNat / 0x10 % 16 := by
  show (BitVec.extractLsb' 4 4 w).toNat = _
  simp only [BitVec.extractLsb'_toNat, Nat.shiftRight_eq_div_pow]

theorem fieldN_val (w : Word) : (fieldN w).val = w.toNat % 16 := by
  show (BitVec.extractLsb' 0 4 w).toNat = _
  simp only [BitVec.extractLsb'_toNat, Nat.shiftRight_zero]

theorem fieldKK_toNat (w : Word) : (fieldKK w).toNat = w.toNat % 0x100 := by
  simp only [fieldKK, BitVec.extractLsb'_toNat, Nat.shiftRight_zero]

theorem fieldNNN_toNat (w : Word) : (fieldNNN w).toNat = w.toNat % 0x1000 := by
  simp only [fieldNNN, BitVec.extractLsb'_toNat, Nat.shiftRight_zero]

/-! ### Packed words as numbers -/

theorem packA_toNat (op : BitVec 4) (nnn : Addr) : (packA op nnn).toNat = op.toNat * 0x1000 + nnn.toNat := by
  have := nnn.isLt
  rw [packA, BitVec.toNat_append, Nat.shiftLeft_eq, ← Nat.shiftLeft_eq, ← Nat.shiftLeft_add_eq_or_of_lt this,
    Nat.shiftLeft_eq]

theorem packXK_toNat (op : BitVec 4) (x : RegIdx) (kk : Byte) :
    (packXK op x kk).toNat = op.toNat * 0x1000 + x.val * 0x100 + kk.toNat := by
  have h1 := kk.isLt
  have h2 : ((BitVec.ofFin (w := 4) x) ++ kk).toNat = x.val * 0x100 + kk.toNat := by
    rw [BitVec.toNat_append, ← Nat.shiftLeft_add_eq_or_of_lt h1, Nat.shiftLeft_eq]
    rfl
  have h3 := ((BitVec.ofFin (w := 4) x) ++ kk).isLt
  rw [packXK, BitVec.toNat_append, ← Nat.shiftLeft_add_eq_or_of_lt h3, Nat.shiftLeft_eq, h2]
  omega

theorem packXYN_toNat (op : BitVec 4) (x y : RegIdx) (n : Count) :
    (packXYN op x y n).toNat = op.toNat * 0x1000 + x.val * 0x100 + y.val * 0x10 + n.val := by
  have e1 : ((BitVec.ofFin (w := 4) y) ++ (BitVec.ofFin (w := 4) n)).toNat = y.val * 0x10 + n.val := by
    rw [BitVec.toNat_append, ← Nat.shiftLeft_add_eq_or_of_lt (BitVec.ofFin (w := 4) n).isLt, Nat.shiftLeft_eq]
    rfl
  have e2 : ((BitVec.ofFin (w := 4) x) ++ ((BitVec.ofFin (w := 4) y) ++ (BitVec.ofFin (w := 4) n))).toNat
      = x.val * 0x100 + y.val * 0x10 + n.val := by
    rw [BitVec.toNat_append, ← Nat.shiftLeft_add_eq_or_of_lt
      ((BitVec.ofFin (w := 4) y) ++ (BitVec.ofFin (w := 4) n)).isLt, Nat.shiftLeft_eq, e1]
    show x.val * 2 ^ 8 + _ = _
    omega
  rw [packXYN, BitVec.toNat_append, ← Nat.shiftLeft_add_eq_or_of_lt
    ((BitVec.ofFin (w := 4) x) ++ ((BitVec.ofFin (w := 4) y) ++ (BitVec.ofFin (w := 4) n))).isLt,
    Nat.shiftLeft_eq, e2]
  omega

/-! ### Fields of packed words -/

@[simp] theorem fieldOp_packA (op : BitVec 4) (nnn : Addr) : fieldOp (packA op nnn) = op := by
  apply BitVec.eq_of_toNat_eq
  have := nnn.isLt
  rw [fieldOp_toNat, packA_toNat]
  omega

@[simp] theorem fieldNNN_packA (op : BitVec 4) (nnn : Addr) : fieldNNN (packA op nnn) = nnn := by
  apply BitVec.eq_of_toNat_eq
  have := nnn.isLt
  rw [fieldNNN_toNat, packA_toNat]
  omega

@[simp] theorem fieldOp_packXK (op : BitVec 4) (x : RegIdx) (kk : Byte) : fieldOp (packXK op x kk) = op := by
  apply BitVec.eq_of_toNat_eq
  have := kk.isLt
  rw [fieldOp_toNat, packXK_toNat]
  omega

@[simp] theorem fieldX_packXK (op : BitVec 4) (x : RegIdx) (kk : Byte) : fieldX (packXK op x kk) = x := by
  apply Fin.ext
  have := kk.isLt
  rw [fieldX_val, packXK_toNat]
  omega

@[simp] theorem fieldKK_packXK (op : BitVec 4) (x : RegIdx) (kk : Byte) : fieldKK (packXK op x kk) = kk := by
  apply BitVec.eq_of_toNat_eq
  have := kk.isLt
  rw [fieldKK_toNat, packXK_toNat]
  omega

@[simp] theorem fieldOp_packXYN (op : BitVec 4) (x y : RegIdx) (n : Count) : fieldOp (packXYN op x y n) = op := by
  apply BitVec.eq_of_toNat_eq
  rw [fieldOp_toNat, packXYN_toNat]
  omega

@[simp] theorem fieldX_packXYN (op : BitVec 4) (x y : RegIdx) (n : Count) : fieldX (packXYN op x y n) = x := by
  apply Fin.ext
  rw [fieldX_val, packXYN_toNat]
  omega

@[simp] theorem fieldY_packXYN (op : BitVec 4) (x y : RegIdx) (n : Count) : fieldY (packXYN op x y n) = y := by
  apply Fin.ext
  rw [fieldY_val, packXYN_toNat]
  omega

@[simp] theorem fieldN_packXYN (op : BitVec 4) (x y : RegIdx) (n : Count) : fieldN (packXYN op x y n) = n := by
  apply Fin.ext
  rw [fieldN_val, packXYN_toNat]
  omega

/-! ### A word is the packing of its fields -/

theorem packA_fields (w : Word) : packA (fieldOp w) (fieldNNN w) = w := by
  apply BitVec.eq_of_toNat_eq
  rw [packA_toNat, fieldOp_toNat, fieldNNN_toNat]
  omega

theorem packXK_fields (w : Word) : packXK (fieldOp w) (fieldX w) (fieldKK w) = w := by
  apply BitVec.eq_of_toNat_eq
  rw [packXK_toNat, fieldOp_toNat, fieldX_val, fieldKK_toNat]
  omega

theorem packXYN_fields (w : Word) : packXYN (fieldOp w) (fieldX w) (fieldY w) (fieldN w) = w := by
  apply BitVec.eq_of_toNat_eq
  rw [packXYN_toNat, fieldOp_toNat, fieldX_val, fieldY_val, fieldN_val]
  omega

/-! ### The decoder's family, by the top nibble (R75) -/

section

variable {w : Word}

theorem decode_op0 (h : fieldOp w = 0x0) : decode w = decodeSys w := by
  unfold decode
  rw [h]
  rfl
theorem decode_op1 (h : fieldOp w = 0x1) : decode w = .instr (.jp (fieldNNN w)) := by
  unfold decode
  rw [h]
  rfl
theorem decode_op2 (h : fieldOp w = 0x2) : decode w = .instr (.call (fieldNNN w)) := by
  unfold decode
  rw [h]
  rfl
theorem decode_op3 (h : fieldOp w = 0x3) : decode w = .instr (.seImm (fieldX w) (fieldKK w)) := by
  unfold decode
  rw [h]
  rfl
theorem decode_op4 (h : fieldOp w = 0x4) : decode w = .instr (.sneImm (fieldX w) (fieldKK w)) := by
  unfold decode
  rw [h]
  rfl
theorem decode_op5 (h : fieldOp w = 0x5) : decode w = decodeStrict (fieldN w) (.seReg (fieldX w) (fieldY w)) := by
  unfold decode
  rw [h]
  rfl
theorem decode_op6 (h : fieldOp w = 0x6) : decode w = .instr (.ldImm (fieldX w) (fieldKK w)) := by
  unfold decode
  rw [h]
  rfl
theorem decode_op7 (h : fieldOp w = 0x7) : decode w = .instr (.addImm (fieldX w) (fieldKK w)) := by
  unfold decode
  rw [h]
  rfl
theorem decode_op8 (h : fieldOp w = 0x8) : decode w = decodeAlu (fieldN w) (fieldX w) (fieldY w) := by
  unfold decode
  rw [h]
  rfl
theorem decode_op9 (h : fieldOp w = 0x9) : decode w = decodeStrict (fieldN w) (.sneReg (fieldX w) (fieldY w)) := by
  unfold decode
  rw [h]
  rfl
theorem decode_opA (h : fieldOp w = 0xA) : decode w = .instr (.ldI (fieldNNN w)) := by
  unfold decode
  rw [h]
  rfl
theorem decode_opB (h : fieldOp w = 0xB) : decode w = .instr (.jpV0 (fieldNNN w)) := by
  unfold decode
  rw [h]
  rfl
theorem decode_opC (h : fieldOp w = 0xC) : decode w = .instr (.rnd (fieldX w) (fieldKK w)) := by
  unfold decode
  rw [h]
  rfl
theorem decode_opD (h : fieldOp w = 0xD) : decode w = .instr (.drw (fieldX w) (fieldY w) (fieldN w)) := by
  unfold decode
  rw [h]
  rfl
theorem decode_opE (h : fieldOp w = 0xE) : decode w = decodeKey (fieldKK w) (fieldX w) := by
  unfold decode
  rw [h]
  rfl
theorem decode_opF (h : fieldOp w = 0xF) : decode w = decodeMisc (fieldKK w) (fieldX w) := by
  unfold decode
  rw [h]
  rfl

end

/-- The families under `STRICT_DECODE` take the low nibble 0 only (R75). -/
theorem decodeStrict_eq (n : Count) (i : Instr) : decodeStrict n i = if n = 0 then .instr i else .unknown := by
  simp [decodeStrict, Config.strictDecode]

/-! ### Bytes of a word -/

@[simp] theorem wordOfBytes_toNat (hi lo : Byte) : (wordOfBytes hi lo).toNat = hi.toNat * 256 + lo.toNat := by
  rw [wordOfBytes, BitVec.toNat_append, ← Nat.shiftLeft_add_eq_or_of_lt lo.isLt, Nat.shiftLeft_eq]

/-- Laying a word out big-endian and reading it back gives the word (R55, R73). -/
@[simp] theorem wordOfBytes_bytes (w : Word) : wordOfBytes (hiByte w) (loByte w) = w := by
  apply BitVec.eq_of_toNat_eq
  have := w.isLt
  rw [wordOfBytes_toNat]
  simp only [hiByte, loByte, BitVec.extractLsb'_toNat, Nat.shiftRight_eq_div_pow]
  omega

end Sys2Proof
end

