-- ==== Sys2Proof/Laws/Memory.lean ====
section
/-!
SUPPORT. The laws of memory: a read after a write, and that every operation keeps the canonical form.
-/

namespace Sys2Proof.Machine

open Sys2Proof

theorem Memory.read_forget (m : Memory) (a b : Nat) :
    Memory.read (Memory.forget m a) b = if b = a then Memory.resetByte b else Memory.read m b := by
  induction m with
  | nil => simp [Memory.forget, Memory.read]
  | cons c m ih =>
    unfold Memory.forget at ih ⊢
    by_cases hc : c.1 = a
    · simp only [List.filter_cons, hc, bne_self_eq_false, Bool.false_eq_true, if_false, ih, Memory.read]
      split <;> simp_all
    · simp only [List.filter_cons, bne_iff_ne, ne_eq, hc, not_false_eq_true, if_true, Memory.read, ih]
      by_cases hb : b = c.1
      · simp [hb, hc]
      · simp [hb]

theorem Memory.read_place (m : Memory) (a b : Nat) (v : Byte) (h : ∀ c ∈ m, c.1 ≠ a) :
    Memory.read (Memory.place m a v) b = if b = a then v else Memory.read m b := by
  induction m with
  | nil => simp [Memory.place, Memory.read]
  | cons c m ih =>
    have ih := ih fun d hd => h d (List.mem_cons_of_mem _ hd)
    have hc : c.1 ≠ a := h c List.mem_cons_self
    unfold Memory.place
    split
    · simp [Memory.read]
    · simp only [Memory.read, ih]
      by_cases hb : b = c.1
      · simp [hb, hc]
      · simp [hb]

theorem Memory.mem_forget {m : Memory} {a : Nat} {c : Host.Cell} :
    c ∈ Memory.forget m a ↔ c ∈ m ∧ c.1 ≠ a := by
  simp [Memory.forget]

/-- A read after a write gives the value written at that address and the old value elsewhere, in every memory. -/
theorem Memory.read_write (m : Memory) (a b : Nat) (v : Byte) :
    Memory.read (Memory.write m a v) b = if b = a then v else Memory.read m b := by
  unfold Memory.write
  split
  · rename_i h
    rw [Memory.read_forget]
    split <;> simp_all
  · rw [Memory.read_place _ _ _ _ fun c hc => (Memory.mem_forget.1 hc).2, Memory.read_forget]
    split <;> rfl

theorem Memory.mem_place {m : Memory} {a : Nat} {v : Byte} {c : Host.Cell} :
    c ∈ Memory.place m a v ↔ c = (a, v) ∨ c ∈ m := by
  induction m with
  | nil => simp [Memory.place]
  | cons d m ih =>
    unfold Memory.place
    split
    · simp
    · simp only [List.mem_cons, ih]
      tauto

theorem Memory.forget_wf {m : Memory} (a : Nat) (h : Memory.wf m) : Memory.wf (Memory.forget m a) :=
  ⟨h.1.filter _, fun c hc => h.2 c (Memory.mem_forget.1 hc).1⟩

theorem Memory.place_sorted {m : Memory} {a : Nat} {v : Byte} (h : m.Pairwise fun c d => c.1 < d.1)
    (ha : ∀ c ∈ m, c.1 ≠ a) : (Memory.place m a v).Pairwise fun c d => c.1 < d.1 := by
  induction m with
  | nil => simp [Memory.place]
  | cons c m ih =>
    have hc : c.1 ≠ a := ha c List.mem_cons_self
    rw [List.pairwise_cons] at h
    unfold Memory.place
    split
    · rename_i hlt
      refine List.pairwise_cons.2 ⟨fun d hd => ?_, List.pairwise_cons.2 h⟩
      rcases List.mem_cons.1 hd with rfl | hd
      · exact hlt
      · exact Nat.lt_trans hlt (h.1 d hd)
    · refine List.pairwise_cons.2 ⟨fun d hd => ?_, ih h.2 fun d hd => ha d (List.mem_cons_of_mem _ hd)⟩
      rcases Memory.mem_place.1 hd with rfl | hd
      · simp only
        omega
      · exact h.1 d hd

/-- A write inside the address space keeps the canonical form. -/
theorem Memory.write_wf {m : Memory} {a : Nat} (v : Byte) (ha : a < Config.memSize) (h : Memory.wf m) :
    Memory.wf (Memory.write m a v) := by
  have hf := Memory.forget_wf a h
  unfold Memory.write
  split
  · exact hf
  · refine ⟨Memory.place_sorted hf.1 fun c hc => (Memory.mem_forget.1 hc).2, fun c hc => ?_⟩
    rcases Memory.mem_place.1 hc with rfl | hc
    · exact ⟨ha, ‹_›⟩
    · exact hf.2 c hc

/-- A block of writes inside the address space keeps the canonical form. -/
theorem Memory.writeBytes_wf {m : Memory} {a : Nat} {vs : List Byte} (ha : a + vs.length ≤ Config.memSize)
    (h : Memory.wf m) : Memory.wf (Memory.writeBytes m a vs) := by
  induction vs generalizing m a with
  | nil => exact h
  | cons v vs ih =>
    simp only [List.length_cons] at ha
    exact ih (by omega) (Memory.write_wf v (by omega) h)

/-- A read after a block of writes: the byte written there, or the old byte outside the block. -/
theorem Memory.read_writeBytes (m : Memory) (a b : Nat) (vs : List Byte) :
    Memory.read (Memory.writeBytes m a vs) b =
      if a ≤ b ∧ b < a + vs.length then vs.getD (b - a) 0 else Memory.read m b := by
  induction vs generalizing m a with
  | nil =>
    have : ¬ (a ≤ b ∧ b < a + ([] : List Byte).length) := by simp
    rw [if_neg this]
    rfl
  | cons v vs ih =>
    simp only [Memory.writeBytes, ih, Memory.read_write, List.length_cons]
    by_cases hb : b = a
    · subst hb
      simp
    · by_cases hin : a + 1 ≤ b ∧ b < a + 1 + vs.length
      · have h2 : a ≤ b ∧ b < a + (vs.length + 1) := by omega
        have h3 : b - a = b - (a + 1) + 1 := by omega
        simp [hin, h2, h3]
      · have h2 : ¬ (a ≤ b ∧ b < a + (vs.length + 1)) := by omega
        rw [if_neg hin, if_neg h2, if_neg hb]

/-- What an address holds after reset: the font at 0x050 to 0x09F, 0 elsewhere (R33, R34). -/
theorem Memory.resetByte_eq (a : Nat) :
    Memory.resetByte a = if 0x050 ≤ a ∧ a ≤ 0x09F then Config.fontGlyphs.getD (a - 0x050) 0 else 0 := by
  have hlen : Config.fontGlyphs.length = 80 := by decide
  by_cases h : 0x050 ≤ a
  · by_cases h' : a ≤ 0x09F
    · rw [if_pos ⟨h, h'⟩]
      exact if_pos h
    · rw [if_neg fun c => h' c.2, ← List.getD_eq_default (l := Config.fontGlyphs) (n := a - 0x050) (d := 0) (by omega)]
      exact if_pos h
  · rw [if_neg fun c => h c.1]
    exact if_neg h

/-- Outside a block of writes every byte reads as before. -/
theorem Memory.read_writeBytes_outside {m : Memory} {a b : Nat} {vs : List Byte} (h : b < a ∨ a + vs.length ≤ b) :
    Memory.read (Memory.writeBytes m a vs) b = Memory.read m b := by
  rw [Memory.read_writeBytes, if_neg (by omega)]

/-- The k-th byte of a block written reads as the k-th value. -/
theorem Memory.read_writeBytes_at {m : Memory} {a k : Nat} {vs : List Byte} (h : k < vs.length) :
    Memory.read (Memory.writeBytes m a vs) (a + k) = vs[k] := by
  rw [Memory.read_writeBytes, if_pos ⟨by omega, by omega⟩]
  simp [h]

theorem Memory.reset_wf : Memory.wf State.reset.mem := by decide

@[simp] theorem Memory.length_readBytes (m : Memory) (a n : Nat) : (Memory.readBytes m a n).length = n := by
  simp [Memory.readBytes]

@[simp] theorem Memory.getElem_readBytes (m : Memory) (a n k : Nat) (h : k < (Memory.readBytes m a n).length) :
    (Memory.readBytes m a n)[k] = Memory.read m (a + k) := by
  simp [Memory.readBytes]

end Sys2Proof.Machine
end

