-- ==== Sys2Proof/Laws/Ops.lean ====
section
/-!
SUPPORT. What each shared operation does, said once: registers, flags, stack, keys, operands, errors and fetch.
-/

namespace Sys2Proof.Machine

open Sys2Proof

variable (s : State)

/-! ### Registers -/

/-- A read of a register after a write (R20). -/
theorem State.reg_setReg (x r : RegIdx) (v : Byte) : (s.setReg x v).reg r = if r = x then v else s.reg r := by
  simp only [State.reg, State.setReg_regs, Fin.getElem_fin, Vector.getElem_set, Fin.val_inj, eq_comm]

@[simp] theorem State.reg_setReg_same (x : RegIdx) (v : Byte) : (s.setReg x v).reg x = v := by
  simp [State.reg_setReg]

theorem State.reg_setReg_other {x r : RegIdx} (v : Byte) (h : r ≠ x) : (s.setReg x v).reg r = s.reg r := by
  simp [State.reg_setReg, h]

theorem State.reg_setFlag (b : Bool) (r : RegIdx) :
    (s.setFlag b).reg r = if r = 0xF then flagByte b else s.reg r := State.reg_setReg ..

/-- Two states with the same register file read the same. -/
theorem State.reg_congr {s t : State} (h : t.regs = s.regs) (r : RegIdx) : t.reg r = s.reg r := by
  simp [State.reg, h]

@[simp] theorem State.reg_setIndex (v : Word) (r : RegIdx) : (s.setIndex v).reg r = s.reg r := rfl
@[simp] theorem State.reg_setPc (v : Word) (r : RegIdx) : (s.setPc v).reg r = s.reg r := rfl
@[simp] theorem State.reg_advance (r : RegIdx) : s.advance.reg r = s.reg r := rfl
@[simp] theorem State.reg_skipIf (c : Bool) (r : RegIdx) : (s.skipIf c).reg r = s.reg r := rfl
@[simp] theorem State.reg_setDt (v : Byte) (r : RegIdx) : (s.setDt v).reg r = s.reg r := rfl
@[simp] theorem State.reg_setSt (v : Byte) (r : RegIdx) : (s.setSt v).reg r = s.reg r := rfl
@[simp] theorem State.reg_setMem (m : Memory) (r : RegIdx) : (s.setMem m).reg r = s.reg r := rfl
@[simp] theorem State.reg_setDisplay (d : Display) (b : Bool) (r : RegIdx) : (s.setDisplay d b).reg r = s.reg r := rfl
@[simp] theorem State.reg_nextDraw (r : RegIdx) : s.nextDraw.reg r = s.reg r := rfl

theorem flagByte_toNat (b : Bool) : (flagByte b).toNat = if b then 1 else 0 := by cases b <;> rfl

/-! ### Flagged results -/

/-- A flagged result: the flag in register 0xF, the value in register X unless X = 0xF, the rest kept (R9). -/
theorem State.finishFlagged_reg (x r : RegIdx) (f : Flagged 8) :
    (s.finishFlagged x f).reg r = if r = 0xF then flagByte f.flag else if r = x then f.value else s.reg r := by
  simp only [State.finishFlagged, State.reg_advance, State.reg_setFlag, State.reg_setReg]

theorem State.finish_reg (x r : RegIdx) (v : Byte) : (s.finish x v).reg r = if r = x then v else s.reg r := by
  simp only [State.finish, State.reg_advance, State.reg_setReg]

theorem addCarry_value (a b : Byte) : (addCarry a b).value.toNat = (a.toNat + b.toNat) % 256 := by
  simp [addCarry]

theorem subNotBorrow_value (a b : Byte) :
    ((subNotBorrow a b).value.toNat : Int) = ((a.toNat : Int) - (b.toNat : Int)) % 256 := by
  simp only [subNotBorrow, BitVec.toNat_ofInt]
  omega

/-! ### Blocks of registers -/

theorem mem_allRegs (r : RegIdx) : r ∈ allRegs := by
  revert r
  decide

theorem mem_regsUpTo {x r : RegIdx} : r ∈ regsUpTo x ↔ r ≤ x := by
  simp [regsUpTo, mem_allRegs]

/-- Registers 0 to X in order are the first X + 1 indices. -/
theorem regsUpTo_getElem (x : RegIdx) :
    (regsUpTo x).length = x.val + 1 ∧ ∀ k : RegIdx, k ≤ x → (regsUpTo x)[k.val]? = some k := by
  revert x
  decide

@[simp] theorem State.length_regBlock (x : RegIdx) : (s.regBlock x).length = x.val + 1 := by
  simp [State.regBlock, (regsUpTo_getElem x).1]

/-- The k-th byte of a register block is register k (R171). -/
theorem State.getElem_regBlock (x k : RegIdx) (h : k ≤ x) (hk : k.val < (s.regBlock x).length) :
    (s.regBlock x)[k.val] = s.reg k := by
  have := (regsUpTo_getElem x).2 k h
  rw [List.getElem?_eq_some_iff] at this
  obtain ⟨_, h'⟩ := this
  simp [State.regBlock, h']

/-- A fold of register writes whose values do not depend on the registers. -/
theorem State.foldl_setReg_reg (rs : List RegIdx) (f : RegIdx → Byte) (r : RegIdx) :
    (rs.foldl (fun t q => t.setReg q (f q)) s).reg r = if r ∈ rs then f r else s.reg r := by
  induction rs generalizing s with
  | nil => simp
  | cons q rs ih =>
    simp only [List.foldl_cons, ih, State.reg_setReg, List.mem_cons]
    by_cases h : r ∈ rs
    · simp [h]
    · by_cases h' : r = q
      · simp [h']
      · simp [h, h']

theorem State.foldl_setReg_eq (rs : List RegIdx) (f : RegIdx → Byte) :
    ∃ v, rs.foldl (fun t q => t.setReg q (f q)) s = { s with regs := v } := by
  induction rs generalizing s with
  | nil => exact ⟨s.regs, rfl⟩
  | cons q rs ih =>
    obtain ⟨v, h⟩ := ih (s.setReg q (f q))
    exact ⟨v, h⟩

/-- A block load writes registers 0 to X from memory and no other register (R172). -/
theorem State.loadRegs_reg (a : Nat) (x r : RegIdx) :
    (s.loadRegs a x).reg r = if r ≤ x then s.mem.read (a + r.val) else s.reg r := by
  rw [State.loadRegs, State.foldl_setReg_reg s (regsUpTo x) fun r => s.mem.read (a + r.val)]
  simp only [mem_regsUpTo]

/-- A block load changes the register file and nothing else. -/
theorem State.loadRegs_eq (a : Nat) (x : RegIdx) : ∃ v, s.loadRegs a x = { s with regs := v } :=
  State.foldl_setReg_eq s (regsUpTo x) fun r => s.mem.read (a + r.val)

/-! ### Stack -/

/-- The pushed entry, and every other entry as before (R27). -/
theorem State.stackEntry_push (a : Word) (h : s.sp.val < 16) (k : Fin 16) :
    (s.push a h).stackEntry k = if k.val = s.sp.val then a else s.stackEntry k := by
  simp only [State.stackEntry, State.push_stack, Fin.getElem_fin, Vector.getElem_set, eq_comm]

theorem State.top_eq (h : 0 < s.sp.val) (k : Fin 16) (hk : s.sp.val = k.val + 1) : s.top h = s.stackEntry k := by
  simp [State.top, State.stackEntry, hk]

/-! ### Keys -/

/-- No key is pressed exactly when there is no least one. -/
theorem State.leastKey_eq_none : s.leastKey = none ↔ ∀ k, s.key k = false := by
  simp [State.leastKey, mem_allRegs]

/-- The least pressed key is pressed, and every lower one is not (R163). -/
theorem State.leastKey_eq_some (k : Key) :
    s.leastKey = some k ↔ s.key k = true ∧ ∀ j, j < k → s.key j = false := by
  have sorted : allRegs.Pairwise (· < ·) := by decide
  rw [State.leastKey, List.find?_eq_some_iff_append]
  constructor
  · rintro ⟨hk, as, bs, h, ha⟩
    refine ⟨hk, fun j hj => ?_⟩
    have hmem : j ∈ as ++ k :: bs := h ▸ mem_allRegs j
    rcases List.mem_append.1 hmem with hj' | hj'
    · simpa using ha j hj'
    · rw [h, List.pairwise_append, List.pairwise_cons] at sorted
      rcases List.mem_cons.1 hj' with rfl | hj'
      · exact absurd hj (lt_irrefl _)
      · exact absurd (sorted.2.1.1 j hj') (not_lt.2 hj.le)
  · rintro ⟨hk, hlt⟩
    obtain ⟨as, bs, h⟩ := List.append_of_mem (mem_allRegs k)
    refine ⟨hk, as, bs, h, fun a ha => ?_⟩
    rw [h, List.pairwise_append] at sorted
    simp [hlt a (sorted.2.2 a ha k List.mem_cons_self)]

/-- A register value names a key exactly when it is at most 0xF (R162). -/
theorem keyOf_eq_some {v : Byte} {k : Key} : keyOf v = some k ↔ v.toNat = k.val := by
  unfold keyOf
  split
  · simp [Fin.ext_iff]
  · simp only [reduceCtorEq, false_iff]
    omega

theorem keyOf_eq_none {v : Byte} : keyOf v = none ↔ 0xF < v.toNat := by
  unfold keyOf
  split
  · simp only [reduceCtorEq, false_iff]
    omega
  · simp only [true_iff]
    omega

/-! ### Operands -/

@[simp] theorem zextAddr_toNat (nnn : Addr) : (zextAddr nnn).toNat = nnn.toNat := by
  have := nnn.isLt
  simp only [zextAddr, BitVec.toNat_setWidth]
  omega

theorem targetOk_iff (t : Nat) : targetOk t = true ↔ 0x200 ≤ t ∧ t ≤ 0xFFF := by simp [targetOk]

theorem State.reachOk_iff (n : Nat) : s.reachOk n = true ↔ s.index.toNat + n ≤ 0xFFF := by
  rw [State.reachOk, State.indexed, decide_eq_true_iff]

theorem State.spriteOk_iff (n : Count) :
    s.spriteOk n = true ↔ n.val = 0 ∨ s.index.toNat + n.val - 1 ≤ 0xFFF := by
  have h : n = 0 ↔ n.val = 0 := Fin.ext_iff
  simp only [State.spriteOk, Bool.or_eq_true, beq_iff_eq, State.reachOk_iff, h]
  omega

@[simp] theorem State.shiftSource_eq (x y : RegIdx) : s.shiftSource x y = s.reg x := rfl

theorem glyphAddr_toNat (v : Byte) : (glyphAddr v).toNat = 0x050 + v.toNat % 16 * 5 := by
  simp only [glyphAddr, Config.fontBase, BitVec.toNat_ofNat]
  omega

@[simp] theorem length_bcd (v : Byte) : (bcd v).length = 3 := rfl

/-! ### Timer ticks -/

theorem countDown_toNat (v : Byte) : (countDown v).toNat = v.toNat - 1 := by
  have := v.isLt
  unfold countDown
  split
  · simp only [BitVec.toNat_ofNat]
    omega
  · omega

/-- A tick as one update: both timers counted down, and the tone if ST was exactly 1 (R230, R231). -/
theorem tickTimers_eq :
    tickTimers s = { s with
      dt := countDown s.dt
      st := countDown s.st
      events := if s.st.toNat = 1 then .tone :: s.events else s.events } := by
  by_cases h : s.st.toNat = 1 <;> simp only [tickTimers, tickSound, tickDelay, State.setDt_st, h, if_true, if_false] <;> rfl

/-! ### Errors and fetch -/

/-- `ERR` after an error: the cause's bit set, every other bit kept (R201). -/
theorem latch_getLsbD (err : BitVec 8) (c : Cause) (k : Nat) (hk : k < 8) :
    (latch err c).getLsbD k = (err.getLsbD k || k + 1 == c.code) := by
  rw [latch, BitVec.getLsbD_or]
  congr 1
  cases c <;> revert k <;> decide

/-- A fetch gives the big-endian word at PC exactly where R74 allows it. -/
theorem State.fetch_eq_some (w : Word) :
    s.fetch = some w ↔ (0x200 ≤ s.pc.toNat ∧ s.pc.toNat ≤ 0xFFE) ∧
      w.toNat = (s.mem.read s.pc.toNat).toNat * 256 + (s.mem.read (s.pc.toNat + 1)).toNat := by
  unfold State.fetch
  split
  · rename_i h
    simp only [State.fetchOk, Bool.and_eq_true, decide_eq_true_eq] at h
    rw [Option.some_inj, ← wordOfBytes_toNat]
    exact ⟨fun e => ⟨h, by rw [e]⟩, fun e => BitVec.eq_of_toNat_eq e.2.symm⟩
  · rename_i h
    simp only [State.fetchOk, Bool.and_eq_true, decide_eq_true_eq] at h
    simp [h]

theorem State.fetch_eq_none : s.fetch = none ↔ s.pc.toNat < 0x200 ∨ 0xFFE < s.pc.toNat := by
  simp only [State.fetch, State.fetchOk, ite_eq_right_iff, reduceCtorEq, imp_false, Bool.and_eq_true,
    decide_eq_true_eq]
  omega

end Sys2Proof.Machine
end

