-- ==== Sys2Proof/Laws/Frames.lean ====
section
/-!
SUPPORT. Frames compose: reflexivity, transitivity, weakening.
-/

namespace Sys2Proof.Safety

open Sys2Proof Sys2Proof.Machine

theorem UnchangedBut.refl (ws : List Part) (s : State) : UnchangedBut ws s s := by
  simp [UnchangedBut]

/-- Two changes one after another change at most what either does. -/
theorem UnchangedBut.trans {ws : List Part} {s t u : State} (h : UnchangedBut ws s t) (h' : UnchangedBut ws t u) :
    UnchangedBut ws s u := by
  obtain ⟨a1, a2, a3, a4, a5, a6, a7, a8, a9, a10, a11, a12, a13, a14⟩ := h
  obtain ⟨b1, b2, b3, b4, b5, b6, b7, b8, b9, b10, b11, b12, b13, b14⟩ := h'
  exact ⟨fun w r => (b1 w r).trans (a1 w r), fun w => (b2 w).trans (a2 w), fun w => (b3 w).trans (a3 w),
    fun w => (b4 w).trans (a4 w), fun w k => (b5 w k).trans (a5 w k), fun w => (b6 w).trans (a6 w),
    fun w => (b7 w).trans (a7 w), fun w c r => (b8 w c r).trans (a8 w c r), fun w => (b9 w).trans (a9 w),
    fun w k => (b10 w k).trans (a10 w k), fun w a => (b11 w a).trans (a11 w a), fun w => (b12 w).trans (a12 w),
    fun w => (b13 w).trans (a13 w), fun w => (b14 w).trans (a14 w)⟩

/-- A frame that allows more follows from one that allows less. -/
theorem UnchangedBut.mono {ws vs : List Part} {s t : State} (h : UnchangedBut ws s t) (hw : ws ⊆ vs) :
    UnchangedBut vs s t := by
  obtain ⟨a1, a2, a3, a4, a5, a6, a7, a8, a9, a10, a11, a12, a13, a14⟩ := h
  exact ⟨fun w => a1 fun m => w (hw m), fun w => a2 fun m => w (hw m), fun w => a3 fun m => w (hw m),
    fun w => a4 fun m => w (hw m), fun w => a5 fun m => w (hw m), fun w => a6 fun m => w (hw m),
    fun w => a7 fun m => w (hw m), fun w => a8 fun m => w (hw m), fun w => a9 fun m => w (hw m),
    fun w => a10 fun m => w (hw m), fun w => a11 fun m => w (hw m), fun w => a12 fun m => w (hw m),
    fun w => a13 fun m => w (hw m), fun w => a14 fun m => w (hw m)⟩

end Sys2Proof.Safety
end

