-- ==== Sys2Proof/Laws/PerInstr.lean ====
section
/-!
SUPPORT. A law said per instruction: the top nibble of an instruction's word selects its family (R71, R76).
-/

namespace Sys2Proof.Laws.OpNibble

open Sys2Proof

/-- The family of an instruction: the first digit of its pattern in R76. -/
def family : Instr → BitVec 4
  | .sys _ | .cls | .ret => 0x0
  | .jp _ => 0x1
  | .call _ => 0x2
  | .seImm _ _ => 0x3
  | .sneImm _ _ => 0x4
  | .seReg _ _ => 0x5
  | .sneReg _ _ => 0x9
  | .ldImm _ _ => 0x6
  | .addImm _ _ => 0x7
  | .ldReg _ _ | .orReg _ _ | .andReg _ _ | .xorReg _ _ | .addReg _ _ | .subReg _ _ | .subnReg _ _ | .shr _ _ | .shl _ _ => 0x8
  | .ldI _ => 0xA
  | .jpV0 _ => 0xB
  | .rnd _ _ => 0xC
  | .drw _ _ _ => 0xD
  | .skp _ | .sknp _ => 0xE
  | .ldVxDt _ | .ldVxK _ | .ldDtVx _ | .ldStVx _ | .addI _ | .ldF _ | .ldB _ | .ldMemVx _ | .ldVxMem _ => 0xF

/-- The top nibble of the word of `i` is `i`'s family. -/
def Statement (i : Instr) : Prop := fieldOp (encode i) = family i

theorem sys (nnn : Addr) : Statement (.sys nnn) := fieldOp_packA _ _
theorem cls : Statement .cls := by unfold Statement; decide
theorem ret : Statement .ret := by unfold Statement; decide
theorem jp (nnn : Addr) : Statement (.jp nnn) := fieldOp_packA _ _
theorem call (nnn : Addr) : Statement (.call nnn) := fieldOp_packA _ _
theorem seImm (x : RegIdx) (kk : Byte) : Statement (.seImm x kk) := fieldOp_packXK _ _ _
theorem sneImm (x : RegIdx) (kk : Byte) : Statement (.sneImm x kk) := fieldOp_packXK _ _ _
theorem seReg (x y : RegIdx) : Statement (.seReg x y) := fieldOp_packXYN _ _ _ _
theorem sneReg (x y : RegIdx) : Statement (.sneReg x y) := fieldOp_packXYN _ _ _ _
theorem ldImm (x : RegIdx) (kk : Byte) : Statement (.ldImm x kk) := fieldOp_packXK _ _ _
theorem addImm (x : RegIdx) (kk : Byte) : Statement (.addImm x kk) := fieldOp_packXK _ _ _
theorem ldReg (x y : RegIdx) : Statement (.ldReg x y) := fieldOp_packXYN _ _ _ _
theorem orReg (x y : RegIdx) : Statement (.orReg x y) := fieldOp_packXYN _ _ _ _
theorem andReg (x y : RegIdx) : Statement (.andReg x y) := fieldOp_packXYN _ _ _ _
theorem xorReg (x y : RegIdx) : Statement (.xorReg x y) := fieldOp_packXYN _ _ _ _
theorem addReg (x y : RegIdx) : Statement (.addReg x y) := fieldOp_packXYN _ _ _ _
theorem subReg (x y : RegIdx) : Statement (.subReg x y) := fieldOp_packXYN _ _ _ _
theorem subnReg (x y : RegIdx) : Statement (.subnReg x y) := fieldOp_packXYN _ _ _ _
theorem shr (x y : RegIdx) : Statement (.shr x y) := fieldOp_packXYN _ _ _ _
theorem shl (x y : RegIdx) : Statement (.shl x y) := fieldOp_packXYN _ _ _ _
theorem ldI (nnn : Addr) : Statement (.ldI nnn) := fieldOp_packA _ _
theorem jpV0 (nnn : Addr) : Statement (.jpV0 nnn) := fieldOp_packA _ _
theorem rnd (x : RegIdx) (kk : Byte) : Statement (.rnd x kk) := fieldOp_packXK _ _ _
theorem drw (x y : RegIdx) (n : Count) : Statement (.drw x y n) := fieldOp_packXYN _ _ _ _
theorem skp (x : RegIdx) : Statement (.skp x) := fieldOp_packXK _ _ _
theorem sknp (x : RegIdx) : Statement (.sknp x) := fieldOp_packXK _ _ _
theorem ldVxDt (x : RegIdx) : Statement (.ldVxDt x) := fieldOp_packXK _ _ _
theorem ldVxK (x : RegIdx) : Statement (.ldVxK x) := fieldOp_packXK _ _ _
theorem ldDtVx (x : RegIdx) : Statement (.ldDtVx x) := fieldOp_packXK _ _ _
theorem ldStVx (x : RegIdx) : Statement (.ldStVx x) := fieldOp_packXK _ _ _
theorem addI (x : RegIdx) : Statement (.addI x) := fieldOp_packXK _ _ _
theorem ldF (x : RegIdx) : Statement (.ldF x) := fieldOp_packXK _ _ _
theorem ldB (x : RegIdx) : Statement (.ldB x) := fieldOp_packXK _ _ _
theorem ldMemVx (x : RegIdx) : Statement (.ldMemVx x) := fieldOp_packXK _ _ _
theorem ldVxMem (x : RegIdx) : Statement (.ldVxMem x) := fieldOp_packXK _ _ _

end Sys2Proof.Laws.OpNibble
end

