-- ==== Sys2Proof/Laws/Step.lean ====
section
/-!
SUPPORT. What a step can do, said once (R223).
-/

namespace Sys2Proof.Machine

open Sys2Proof

variable (s : State)

/-- A step is the fetch error, the unknown-opcode error of a fetched word, or the execution of the instruction the
fetched word decodes to. -/
theorem step_cases :
    (s.fetch = none ∧ step s = .next (raise .fetchRange none s)) ∨
    (∃ w, s.fetch = some w ∧ decode w = .unknown ∧ step s = .next (raise .unknownOpcode (some w) s)) ∨
    (∃ w i, s.fetch = some w ∧ decode w = .instr i ∧ step s = exec i s) := by
  unfold step runWord
  cases hf : s.fetch with
  | none => exact .inl ⟨rfl, rfl⟩
  | some w =>
    cases hd : decode w with
    | unknown => exact .inr (.inl ⟨w, rfl, hd, by simp [hd]⟩)
    | instr i => exact .inr (.inr ⟨w, i, rfl, hd, by simp [hd]⟩)

/-- A step on a fetched word that decodes. -/
theorem step_of_decode {w : Word} {i : Instr} (hf : s.fetch = some w) (hd : decode w = .instr i) :
    step s = exec i s := by
  simp [step, runWord, hf, hd]

/-- A run of no steps. -/
theorem run_zero (t : State) : Host.Core.run core 0 t = .next t := rfl

/-- A run whose first step answers a next state, on any machine. -/
theorem coreRun_succ (M : Host.Core) {n : Nat} {t u : M.State} (h : M.step t = .next u) :
    M.run (n + 1) t = M.run n u := by
  simp only [Host.Core.run, h]

/-- A run whose first step answers a next state. -/
theorem run_succ {n : Nat} {t u : State} (h : step t = .next u) :
    Host.Core.run core (n + 1) t = Host.Core.run core n u := coreRun_succ core h

/-- What `withFetchWord` stores is what the next step fetches. -/
theorem State.fetch_withFetchWord (nbits w : Nat) : (s.withFetchWord nbits w).fetch = some (tableWord nbits w) := by
  have hpc : ∀ t : State, (t.withFetchablePc).pc.toNat ≥ 0x200 ∧ (t.withFetchablePc).pc.toNat ≤ 0xFFE := by
    intro t
    unfold State.withFetchablePc
    split
    · rename_i h
      simpa [State.fetchOk] using h
    · simp
  have h := hpc s
  rw [State.fetch_eq_some]
  refine ⟨h, ?_⟩
  show _ = ((Memory.writeBytes _ _ _).read s.withFetchablePc.pc.toNat).toNat * 256 +
    ((Memory.writeBytes _ _ _).read (s.withFetchablePc.pc.toNat + 1)).toNat
  simp only [Memory.writeBytes, Memory.read_write]
  rw [if_neg (by omega), if_pos trivial, if_pos trivial, ← wordOfBytes_toNat, wordOfBytes_bytes]

end Sys2Proof.Machine
end

