-- ==== Sys2Proof/Tests/Slice0.lean ====
section
/-!
SUPPORT. The model's own tests: the WellFormed smoke test, every constructor's decoding from a word written out from
R76, one or two vectors of `95_test_vectors.md` per instruction, the transactions, and a witness for the hypotheses of
every obligation that has some. Expected results come from the spec.
-/

namespace Sys2Proof.Tests

open Sys2Proof Sys2Proof.Machine Sys2Proof.Safety

/-! ### WellFormed: the one check (rows 2 and 3 of R76 take precedence over row 1) -/

theorem test_sys_with_cls_word_is_ill_formed : (Instr.sys 0x0E0).wellFormed = false := by decide
theorem test_sys_with_ret_word_is_ill_formed : (Instr.sys 0x0EE).wellFormed = false := by decide
theorem test_sys_beside_cls_is_well_formed : (Instr.sys 0x0E1).wellFormed = true := by decide

/-! ### Decoding: a word for every constructor, written out from R76 -/

theorem test_decode_flow :
    decode 0x0123 = .instr (.sys 0x123) ∧ decode 0x00E0 = .instr .cls ∧ decode 0x00EE = .instr .ret ∧
    decode 0x12A4 = .instr (.jp 0x2A4) ∧ decode 0x2300 = .instr (.call 0x300) ∧
    decode 0x3342 = .instr (.seImm 3 0x42) ∧ decode 0x4342 = .instr (.sneImm 3 0x42) ∧
    decode 0x5120 = .instr (.seReg 1 2) ∧ decode 0x9120 = .instr (.sneReg 1 2) ∧
    decode 0xB300 = .instr (.jpV0 0x300) := by decide

theorem test_decode_alu :
    decode 0x6342 = .instr (.ldImm 3 0x42) ∧ decode 0x7103 = .instr (.addImm 1 3) ∧
    decode 0x8120 = .instr (.ldReg 1 2) ∧ decode 0x8121 = .instr (.orReg 1 2) ∧
    decode 0x8122 = .instr (.andReg 1 2) ∧ decode 0x8123 = .instr (.xorReg 1 2) ∧
    decode 0x8AB4 = .instr (.addReg 0xA 0xB) ∧ decode 0x8125 = .instr (.subReg 1 2) ∧
    decode 0x84A6 = .instr (.shr 4 0xA) ∧ decode 0x8127 = .instr (.subnReg 1 2) ∧
    decode 0x840E = .instr (.shl 4 0) ∧ decode 0xC20F = .instr (.rnd 2 0x0F) := by decide

theorem test_decode_index_and_draw :
    decode 0xA300 = .instr (.ldI 0x300) ∧ decode 0xDF15 = .instr (.drw 0xF 1 5) ∧
    decode 0xF21E = .instr (.addI 2) ∧ decode 0xF029 = .instr (.ldF 0) ∧ decode 0xF033 = .instr (.ldB 0) ∧
    decode 0xF255 = .instr (.ldMemVx 2) ∧ decode 0xFF65 = .instr (.ldVxMem 0xF) := by decide

theorem test_decode_keys_and_timers :
    decode 0xE59E = .instr (.skp 5) ∧ decode 0xE5A1 = .instr (.sknp 5) ∧ decode 0xF307 = .instr (.ldVxDt 3) ∧
    decode 0xF30A = .instr (.ldVxK 3) ∧ decode 0xF015 = .instr (.ldDtVx 0) ∧
    decode 0xF018 = .instr (.ldStVx 0) := by decide

/-- R77, the vectors of section 2.2. -/
theorem test_decode_unknown :
    decode 0x5121 = .unknown ∧ decode 0x912F = .unknown ∧ decode 0x8128 = .unknown ∧ decode 0xE5A2 = .unknown ∧
    decode 0xF0FF = .unknown ∧ decode 0xFFFF = .unknown := by decide

theorem test_decode_table_word :
    decodeTableWord 16 0xD015 = some (.drw 0 1 5) ∧ decodeTableWord 16 0x8128 = none := by decide

/-! ### One step: the vectors of `95_test_vectors.md` section 2 -/

/-- Whether a next state passes a check. -/
def passes (a : Answer) (p : State → Bool) : Bool :=
  match a with
  | .next t => p t
  | .fault _ => false
  | .refused _ => false

/-- Whether a step on the word `w`, placed at PC, passes a check. -/
def runs (w : Nat) (s : State) (p : State → Bool) : Bool := passes (step (s.withFetchWord 16 w)) p

/-- The reset state with two registers set. -/
def regs2 (x : RegIdx) (a : Byte) (y : RegIdx) (b : Byte) : State := (State.reset.setReg x a).setReg y b

/-- The reset state with PC and `n` stack entries at `a`. -/
def stacked (pc a : Word) (n : Fin 17) : State :=
  { State.reset with pc := pc, sp := n, stack := Vector.replicate 16 a }

/-- The reset state with I and the bytes there. -/
def memAt (i : Word) (bs : List Byte) : State :=
  (State.reset.setIndex i).setMem (State.reset.mem.writeBytes i.toNat bs)

theorem test_sys : runs 0x0123 State.reset (fun t => t.pc == 0x202 && t.err == 0x01 &&
    t.events == [.error .unknownOpcode 0x200 (some 0x0123)]) = true := by decide
theorem test_sys_zero_word : passes (step State.reset) (fun t => t.pc == 0x202 && t.err == 0x01) = true := by decide

theorem test_cls : runs 0x00E0 (State.reset.setDisplay (State.reset.disp.toggle 63 31) false)
    (fun t => !t.disp.pixel 63 31 && t.dirty && t.pc == 0x202) = true := by decide
theorem test_cls_blank_marks_dirty : runs 0x00E0 State.reset (fun t => t.dirty && t.reg 0xF == 0) = true := by decide

theorem test_ret : runs 0x00EE (stacked 0x300 0x200 1)
    (fun t => t.pc == 0x202 && t.sp == 0 && t.stackEntry 0 == 0x200) = true := by decide
theorem test_ret_empty : runs 0x00EE (stacked 0x300 0x200 0) (fun t => t.pc == 0x302 && t.err == 0x04) = true := by decide

theorem test_jp : runs 0x12A4 State.reset (fun t => t.pc == 0x2A4) = true := by decide
theorem test_jp_bad_target : runs 0x11FF State.reset (fun t => t.pc == 0x202 && t.err == 0x08) = true := by decide

theorem test_call_16th_level : runs 0x2300 (stacked 0x204 0 15)
    (fun t => t.pc == 0x300 && t.sp == 16 && t.stackEntry 15 == 0x204) = true := by decide
theorem test_call_full_reports_overflow_only : runs 0x2100 (stacked 0x204 0 16)
    (fun t => t.pc == 0x206 && t.sp == 16 && t.err == 0x02) = true := by decide

theorem test_se_imm : runs 0x3342 (State.reset.setReg 3 0x42) (fun t => t.pc == 0x204) = true := by decide
theorem test_se_imm_at_the_end : runs 0x3000 (State.reset.setPc 0xFFE) (fun t => t.pc == 0x1002) = true := by decide
theorem test_sne_imm : runs 0x4342 (State.reset.setReg 3 0x41) (fun t => t.pc == 0x204) = true := by decide
theorem test_sne_imm_equal : runs 0x4342 (State.reset.setReg 3 0x42) (fun t => t.pc == 0x202) = true := by decide
theorem test_se_reg : runs 0x5120 (regs2 1 7 2 7) (fun t => t.pc == 0x204) = true := by decide
theorem test_se_reg_same : runs 0x5110 (State.reset.setReg 1 9) (fun t => t.pc == 0x204) = true := by decide
theorem test_sne_reg : runs 0x9120 (regs2 1 7 2 8) (fun t => t.pc == 0x204) = true := by decide
theorem test_sne_reg_same : runs 0x9110 (State.reset.setReg 1 7) (fun t => t.pc == 0x202) = true := by decide

theorem test_ld_imm : runs 0x6342 State.reset (fun t => t.reg 3 == 0x42 && t.pc == 0x202) = true := by decide
theorem test_ld_imm_last_fetch : runs 0x6001 (State.reset.setPc 0xFFE)
    (fun t => t.reg 0 == 1 && t.pc == 0x1000) = true := by decide
theorem test_add_imm_writes_no_flag : runs 0x7103 (regs2 1 0xFE 0xF 0x55)
    (fun t => t.reg 1 == 0x01 && t.reg 0xF == 0x55) = true := by decide
theorem test_ld_reg : runs 0x8120 (State.reset.setReg 2 0x99) (fun t => t.reg 1 == 0x99) = true := by decide
theorem test_or : runs 0x8121 ((regs2 1 0xF0 2 0x0F).setReg 0xF 0x33)
    (fun t => t.reg 1 == 0xFF && t.reg 0xF == 0x33) = true := by decide
theorem test_and : runs 0x8122 (regs2 1 0xF0 2 0x3C) (fun t => t.reg 1 == 0x30) = true := by decide
theorem test_xor : runs 0x8123 (regs2 1 0xF0 2 0x3C) (fun t => t.reg 1 == 0xCC) = true := by decide

theorem test_add_reg : runs 0x8AB4 (regs2 0xA 0xFA 0xB 0x0A)
    (fun t => t.reg 0xA == 0x04 && t.reg 0xF == 1) = true := by decide
theorem test_add_reg_into_flag : runs 0x8F14 (regs2 0xF 0xFF 1 0x01) (fun t => t.reg 0xF == 1) = true := by decide
theorem test_sub : runs 0x8125 (regs2 1 0x05 2 0x0A) (fun t => t.reg 1 == 0xFB && t.reg 0xF == 0) = true := by decide
theorem test_sub_same : runs 0x8115 (State.reset.setReg 1 0x37)
    (fun t => t.reg 1 == 0 && t.reg 0xF == 1) = true := by decide
theorem test_subn : runs 0x8127 (regs2 1 0x05 2 0x0A) (fun t => t.reg 1 == 0x05 && t.reg 0xF == 1) = true := by decide
theorem test_subn_borrow : runs 0x8127 (regs2 1 0x0A 2 0x05)
    (fun t => t.reg 1 == 0xFB && t.reg 0xF == 0) = true := by decide
theorem test_shr_ignores_y : runs 0x84A6 (regs2 4 0x03 0xA 0xFF)
    (fun t => t.reg 4 == 0x01 && t.reg 0xA == 0xFF && t.reg 0xF == 1) = true := by decide
theorem test_shr_bit_clear : runs 0x8406 (State.reset.setReg 4 0x80)
    (fun t => t.reg 4 == 0x40 && t.reg 0xF == 0) = true := by decide
theorem test_shl : runs 0x840E (State.reset.setReg 4 0x81) (fun t => t.reg 4 == 0x02 && t.reg 0xF == 1) = true := by decide
theorem test_shl_bit_clear : runs 0x840E (State.reset.setReg 4 0x7F)
    (fun t => t.reg 4 == 0xFE && t.reg 0xF == 0) = true := by decide

theorem test_ld_i : runs 0xA300 State.reset (fun t => t.index == 0x0300 && t.pc == 0x202) = true := by decide
theorem test_jp_v0 : runs 0xB1F0 ((State.reset.setPc 0x300).setReg 0 0x10) (fun t => t.pc == 0x200) = true := by decide
theorem test_jp_v0_not_wrapped : runs 0xBFFF (State.reset.setReg 0 0x01)
    (fun t => t.pc == 0x202 && t.err == 0x08) = true := by decide
theorem test_rnd_masks : (State.reset.withRandom 0xB7 2 0x0F).reg 2 = 0x07 := by decide
theorem test_rnd_takes_a_fresh_byte : runs 0xC20F State.reset (fun t => t.pc == 0x202 && t.draws == 1) = true := by decide

theorem test_drw_clipped_right : runs 0xD011 ((memAt 0x300 [0xFF]).setReg 0 62)
    (fun t => t.disp.pixel 62 0 && t.disp.pixel 63 0 && !t.disp.pixel 61 0 && !t.disp.pixel 0 0 && t.reg 0xF == 0) = true := by decide
theorem test_drw_partial_collision :
    runs 0xD011 ((memAt 0x300 [0xC0]).setDisplay (Display.blank.toggle 1 0) false)
      (fun t => t.disp.pixel 0 0 && !t.disp.pixel 1 0 && t.reg 0xF == 1 && t.dirty) = true := by decide

theorem test_skp : runs 0xE59E (setKey 7 true (State.reset.setReg 5 7)) (fun t => t.pc == 0x204) = true := by decide
theorem test_skp_index_not_reduced : runs 0xE59E (setKey 0 true (State.reset.setReg 5 0x10))
    (fun t => t.pc == 0x202 && t.err == 0x40) = true := by decide
theorem test_sknp : runs 0xE5A1 (State.reset.setReg 5 7) (fun t => t.pc == 0x204) = true := by decide
theorem test_sknp_pressed : runs 0xE5A1 (setKey 7 true (State.reset.setReg 5 7))
    (fun t => t.pc == 0x202) = true := by decide
theorem test_ld_vx_dt : runs 0xF307 (State.reset.setDt 0x3C) (fun t => t.reg 3 == 0x3C && t.dt == 0x3C) = true := by decide
theorem test_await_key_least : runs 0xF30A (setKey 9 true (setKey 3 true State.reset))
    (fun t => t.reg 3 == 0x03 && t.pc == 0x202) = true := by decide
theorem test_await_key_waits : runs 0xF30A (State.reset.setReg 3 0x55)
    (fun t => t.pc == 0x200 && t.reg 3 == 0x55 && t.err == 0) = true := by decide
theorem test_ld_dt : runs 0xF015 (State.reset.setReg 0 3) (fun t => t.dt == 3 && t.pc == 0x202) = true := by decide
theorem test_ld_st : runs 0xF018 (State.reset.setReg 0 2) (fun t => t.st == 2 && t.events == []) = true := by decide

theorem test_add_i_wraps : runs 0xF21E ((State.reset.setIndex 0xFFFF).setReg 2 2)
    (fun t => t.index == 0x0001 && t.reg 0xF == 1) = true := by decide
theorem test_add_i_reaching_the_end : runs 0xF21E ((State.reset.setIndex 0xFFE).setReg 2 1)
    (fun t => t.index == 0x0FFF && t.reg 0xF == 0) = true := by decide
theorem test_ld_f_low_nibble : runs 0xF029 (State.reset.setReg 0 0x1A) (fun t => t.index == 0x0082) = true := by decide
theorem test_ld_b : runs 0xF033 ((State.reset.setIndex 0x300).setReg 0 156)
    (fun t => t.mem.readBytes 0x300 3 == [1, 5, 6] && t.index == 0x0300) = true := by decide
theorem test_ld_b_past_the_end : runs 0xF033 ((State.reset.setIndex 0xFFE).setReg 0 255)
    (fun t => t.mem.readBytes 0xFFE 2 == [0, 0] && t.pc == 0x202 && t.err == 0x10) = true := by decide
theorem test_store_block : runs 0xF255 (((regs2 0 1 1 2).setReg 2 3).setIndex 0x300)
    (fun t => t.mem.readBytes 0x300 4 == [1, 2, 3, 0] && t.index == 0x0303) = true := by decide
theorem test_store_block_past_the_end : runs 0xF155 ((regs2 0 0xAB 1 0xCD).setIndex 0xFFF)
    (fun t => t.mem.read 0xFFF == 0 && t.index == 0x0FFF && t.err == 0x10) = true := by decide
theorem test_load_block : runs 0xF265 ((memAt 0x300 [1, 5, 6, 9]).setReg 3 0x77)
    (fun t => t.reg 0 == 1 && t.reg 1 == 5 && t.reg 2 == 6 && t.reg 3 == 0x77 && t.index == 0x0303) = true := by decide
theorem test_load_block_last_fit : runs 0xFF65 (memAt 0xFF0 [0x11])
    (fun t => t.reg 0 == 0x11 && t.reg 0xF == 0 && t.index == 0x1000) = true := by decide

/-! ### Decode and fetch corner cases, transactions (sections 2.2, 2.6) -/

theorem test_unknown_word : runs 0x5121 (regs2 1 7 2 7) (fun t => t.pc == 0x202 && t.err == 0x01) = true := by decide
theorem test_fetch_range : passes (step (State.reset.setPc 0xFFF)) (fun t => t.pc == 0xFFF && t.err == 0x20 &&
    t.events == [.error .fetchRange 0xFFF none]) = true := by decide
theorem test_fetch_range_below : passes (step (State.reset.setPc 0x1FE))
    (fun t => t.pc == 0x1FE && t.err == 0x20) = true := by decide
theorem test_tick_tone : (tickTimers (State.reset.setSt 1)).st = 0 ∧ (tickTimers (State.reset.setSt 1)).events = [.tone] ∧
    (tickTimers (State.reset.setSt 2)).events = [] := by decide
theorem test_tick_stops_at_zero : (tickTimers (State.reset.setDt 3)).dt = 2 ∧ (tickTimers State.reset).dt = 0 := by decide
theorem test_font_after_reset : State.reset.mem.readBytes 0x050 5 = [0xF0, 0x90, 0x90, 0x90, 0xF0] ∧
    State.reset.mem.readBytes 0x09B 6 = [0xF0, 0x80, 0xF0, 0x80, 0x80, 0] := by decide
theorem test_write_of_reset_contents_removes_the_entry :
    (State.reset.mem.write 0x300 7).write 0x300 0 = [] ∧ State.reset.mem.write 0x050 0xF0 = [] := by decide

/-! ### Witnesses: a concrete state and operands for the hypotheses of every obligation that has some -/

/-- The reset state with a word at 0x200. -/
def placed (w : Nat) : State := State.reset.withFetchWord 16 w

theorem placed_fetches (w : Word) : FetchesWord (placed w.toNat) w := by
  have h := State.fetch_withFetchWord State.reset 16 w.toNat
  have e : tableWord 16 w.toNat = w := by
    have := w.isLt
    apply BitVec.eq_of_toNat_eq
    simp only [tableWord, BitVec.toNat_ofNat]
    omega
  rw [e] at h
  have := (State.fetch_eq_some _ w).1 h
  exact ⟨this.1.1, this.1.2, this.2⟩

theorem witness_decode_inverts_encode : (Instr.drw 0xF 1 5).wellFormed = true ∧ (Instr.sys 0xFFF).wellFormed = true := by
  decide
theorem witness_encode_inverts_decode : decode 0xD015 = .instr (.drw 0 1 5) := by decide
theorem witness_opcode_map_sys : (0x0E1 : Addr) ≠ 0x0E0 ∧ (0x0E1 : Addr) ≠ 0x0EE := by decide
theorem witness_step_runs : FetchesWord (placed 0x6342) 0x6342 ∧ decode 0x6342 = .instr (.ldImm 3 0x42) :=
  ⟨placed_fetches 0x6342, by decide⟩
theorem witness_unknown_opcode : (FetchesWord (placed 0x5121) 0x5121 ∧ decode 0x5121 = .unknown) ∧
    FetchesWord (placed 0x0123) 0x0123 ∧ decode 0x0123 = .instr (.sys 0x123) :=
  ⟨⟨placed_fetches 0x5121, by decide⟩, placed_fetches 0x0123, by decide⟩
theorem witness_fetch_range : (State.reset.setPc 0x1FF).pc.toNat < 0x200 ∧ 0xFFE < (State.reset.setPc 0xFFF).pc.toNat := by
  decide
theorem witness_ret : (stacked 0x300 0x200 1).sp.val = (0 : Fin 16).val + 1 ∧
    (stacked 0x300 0x200 16).sp.val = (15 : Fin 16).val + 1 ∧ State.reset.sp.val = 0 := by decide
theorem witness_jp : 0x200 ≤ (0x200 : Addr).toNat ∧ 0x200 ≤ (0xFFF : Addr).toNat ∧ (0x1FF : Addr).toNat < 0x200 := by decide
theorem witness_call : (State.reset.sp.val = (0 : Fin 16).val ∧ (stacked 0x204 0 15).sp.val = (15 : Fin 16).val ∧
    0x200 ≤ (0x200 : Addr).toNat) ∧ (stacked 0x204 0 16).sp.val = 16 ∧
    (stacked 0x204 0 15).sp.val < 16 ∧ (0x1FF : Addr).toNat < 0x200 := by decide
theorem witness_self_jump : FetchesWord (placed 0x1200) 0x1200 ∧
    (0x1200 : Word).toNat = 0x1000 + (placed 0x1200).pc.toNat := ⟨placed_fetches 0x1200, by decide⟩
theorem witness_call_then_ret : (stacked 0x204 0 15).sp.val < 16 ∧ 0x200 ≤ (0x200 : Addr).toNat := by decide
theorem witness_flagged_result : (1 : RegIdx) ≠ 0xF := by decide
theorem witness_jump_with_offset :
    ((State.reset.setReg 0 0x10).reg 0).toNat + (0x1F0 : Addr).toNat = 0x200 ∧
    ((State.reset.setReg 0 0xFF).reg 0).toNat + (0xF00 : Addr).toNat = 0xFFF ∧
    ((State.reset.setReg 0 0xFF).reg 0).toNat + (0x100 : Addr).toNat < 0x200 ∧
    0xFFF < ((State.reset.setReg 0 1).reg 0).toNat + (0xFFF : Addr).toNat := by decide
theorem witness_sprite_in_memory : SpriteInMemory (State.reset.setIndex 0xFFFF) 0 ∧
    SpriteInMemory (State.reset.setIndex 0xFFF) 1 ∧ ¬ SpriteInMemory (State.reset.setIndex 0xFFF) 2 := by
  unfold SpriteInMemory
  decide

theorem witness_sprite_lands : SpriteLands (memAt 0x300 [0x80]) 0 1 1 0 0 :=
  ⟨0, 0, by decide, by decide, by decide, by decide, by decide⟩
theorem witness_sprite_misses : ¬ SpriteLands (memAt 0x300 [0x80]) 0 1 1 8 0 := by
  rintro ⟨k, b, _, hb, _, hc, _⟩
  have : ((memAt 0x300 [0x80]).reg 0).toNat = 0 := by decide
  omega
theorem witness_collision : ∃ (col : Fin 64) (row : Fin 32),
    SpriteLands ((memAt 0x300 [0x80]).setDisplay (Display.blank.toggle 0 0) false) 0 1 1 col.val row.val ∧
    ((memAt 0x300 [0x80]).setDisplay (Display.blank.toggle 0 0) false).disp.pixel col row = true :=
  ⟨0, 0, ⟨0, 0, by decide, by decide, by decide, by decide, by decide⟩, by decide⟩
theorem witness_no_collision : ∀ (col : Fin 64) (row : Fin 32),
    SpriteLands (memAt 0x300 [0x80]) 0 1 1 col.val row.val → (memAt 0x300 [0x80]).disp.pixel col row = false := by
  intro col row _
  exact Display.pixel_blank col row
theorem witness_draw_twice : (0 : RegIdx) ≠ 0xF ∧ (1 : RegIdx) ≠ 0xF ∧ SpriteInMemory (memAt 0x300 [0x80]) 1 := by
  unfold SpriteInMemory
  decide

theorem witness_key_skips : ((State.reset.setReg 5 0xF).reg 5).toNat = (0xF : Key).val ∧
    0xF < ((State.reset.setReg 5 0x10).reg 5).toNat := by decide
theorem witness_await_key : ((setKey 3 true State.reset).key 3 = true ∧
    ∀ j : Key, j.val < (3 : Key).val → (setKey 3 true State.reset).key j = false) ∧
    ∀ k : Key, State.reset.key k = false := by decide
theorem witness_await_key_wait : FetchesWord (placed 0xF30A) 0xF30A ∧ (0xF30A : Word).toNat = wordXK 0xF 3 0x0A ∧
    ∀ k : Key, (placed 0xF30A).key k = false := ⟨placed_fetches 0xF30A, by decide, by decide⟩
theorem witness_store_bcd : (State.reset.setIndex 0xFFD).index.toNat + 2 ≤ 0xFFF ∧
    0xFFF < (State.reset.setIndex 0xFFE).index.toNat + 2 := by decide
theorem witness_register_block : (State.reset.setIndex 0xFF0).index.toNat + (0xF : RegIdx).val ≤ 0xFFF ∧
    0xFFF < (State.reset.setIndex 0xFF1).index.toNat + (0xF : RegIdx).val := by decide
theorem witness_stored_block_loads_back : (State.reset.setIndex 0xFF0).index.toNat + (0xF : RegIdx).val ≤ 0xFFF ∧
    passes (exec (.ldMemVx 0xF) (State.reset.setIndex 0xFF0)) (fun t => (t.setIndex 0xFF0).index == 0xFF0) = true := by
  decide
theorem witness_set_key_other : (3 : Key) ≠ 4 := by decide
theorem witness_load : (List.replicate 3584 (0 : Byte)).length ≤ 3584 ∧ 3584 < (List.replicate 3585 (0 : Byte)).length := by
  rw [List.length_replicate, List.length_replicate]
  omega
theorem witness_before_reset : Transaction.step ≠ .reset := by decide

/-- Reset meets the invariant, and a step from it answers (the word 0x0000 is SYS). -/
theorem witness_invariant : GoodState State.reset ∧ ∃ t, step State.reset = .next t :=
  ⟨⟨Memory.reset_wf, by decide, by decide, by decide⟩, _, rfl⟩
theorem witness_invariant_transaction : GoodState State.reset ∧
    transactOn .tickTimers State.reset = .next (tickTimers State.reset, .silent) := ⟨witness_invariant.1, rfl⟩
theorem witness_err_sticky : (State.reset.setErr 0x04).err.getLsbD 2 = true ∧
    ∃ t, step (State.reset.setErr 0x04) = .next t := ⟨by decide, _, rfl⟩
theorem witness_clean_run : ∃ t, Host.Core.run core 1 (placed 0x6342) = .next t ∧ NoError t :=
  ⟨(placed 0x6342).finish 3 0x42, by
    have h := step_of_decode (placed 0x6342) (w := 0x6342)
      ((State.fetch_eq_some _ _).2 ⟨⟨(placed_fetches 0x6342).1, (placed_fetches 0x6342).2.1⟩, (placed_fetches 0x6342).2.2⟩)
      (i := .ldImm 3 0x42) (by decide)
    rw [run_succ (h.trans rfl), run_zero], rfl⟩
theorem witness_only_named : exec (.ldImm 3 0x42) State.reset = .next (State.reset.finish 3 0x42) ∧
    (∀ x, Instr.ldImm 3 0x42 ≠ .ldB x ∧ Instr.ldImm 3 0x42 ≠ .ldMemVx x) ∧ (∀ nnn, Instr.ldImm 3 0x42 ≠ .call nnn) ∧
    (Instr.ldImm 3 0x42 ≠ .cls ∧ ∀ x y n, Instr.ldImm 3 0x42 ≠ .drw x y n) ∧
    (∀ x, Instr.ldImm 3 0x42 ≠ .ldDtVx x) ∧ (∀ x, Instr.ldImm 3 0x42 ≠ .ldStVx x) ∧
    (∀ nnn, Instr.ldImm 3 0x42 ≠ .ldI nnn) ∧
    ∀ x, Instr.ldImm 3 0x42 ≠ .addI x ∧ Instr.ldImm 3 0x42 ≠ .ldF x ∧ Instr.ldImm 3 0x42 ≠ .ldMemVx x ∧
      Instr.ldImm 3 0x42 ≠ .ldVxMem x := by
  refine ⟨rfl, ?_⟩
  simp

end Sys2Proof.Tests
end

section
/-!
SUPPORT. The frames of the operations that set PC or the display (R10, R23, R101), each said once.
-/

namespace Sys2Proof.Safety

open Sys2Proof Sys2Proof.Machine

variable (s : State)

/-- Setting PC changes PC only. -/
theorem unchangedBut_setPc (v : Word) : UnchangedBut [.pc] s (s.setPc v) := by
  simp [UnchangedBut, State.stackEntry, State.key]

/-- Advancing changes PC only (R10). -/
theorem unchangedBut_advance : UnchangedBut [.pc] s s.advance := unchangedBut_setPc s _

/-- A skip changes PC only, whether or not it is taken (R23). -/
theorem unchangedBut_skipIf (c : Bool) : UnchangedBut [.pc] s (s.skipIf c) := unchangedBut_setPc s _

/-- Replacing the display changes the pixels and the dirty mark only. -/
theorem unchangedBut_setDisplay (d : Display) (b : Bool) : UnchangedBut [.disp, .dirty] s (s.setDisplay d b) := by
  simp [UnchangedBut, State.stackEntry, State.key]

end Sys2Proof.Safety
end

section
/-!
What CLS and the four SE/SNE instructions answer, and the obligations about them (R101, R105 to R108).
-/

open Sys2Proof Sys2Proof.Machine Sys2Proof.Safety

namespace Sys2Proof.Machine

variable (s : State)

theorem exec_cls : exec .cls s = .next (s.setDisplay Display.blank true).advance := rfl

theorem exec_seImm (x : RegIdx) (kk : Byte) : exec (.seImm x kk) s = .next (s.skipIf (s.reg x == kk)) := rfl

theorem exec_sneImm (x : RegIdx) (kk : Byte) : exec (.sneImm x kk) s = .next (s.skipIf (s.reg x != kk)) := rfl

theorem exec_seReg (x y : RegIdx) : exec (.seReg x y) s = .next (s.skipIf (s.reg x == s.reg y)) := rfl

theorem exec_sneReg (x y : RegIdx) : exec (.sneReg x y) s = .next (s.skipIf (s.reg x != s.reg y)) := rfl

end Sys2Proof.Machine

namespace Sys2Proof.Safety

/-- The skip of R23, for any condition `p` that the compared bit `c` decides: the one argument behind R105 to R108. -/
theorem answers_skipIf {a : Answer} {s : State} {c : Bool} {p : Prop} [Decidable p] (ha : a = .next (s.skipIf c))
    (hc : c = true ↔ p) :
    Answers a fun t => t.pc = (if p then s.pc + 4 else s.pc + 2) ∧ UnchangedBut [.pc] s t := by
  have hpc : (s.skipIf c).pc = if p then s.pc + 4 else s.pc + 2 := by
    simp only [State.skipIf_pc, hc]
  exact ⟨s.skipIf c, ha, hpc, unchangedBut_skipIf s c⟩

end Sys2Proof.Safety

/-- Settles O12: CLS replaces the display by the blank one, then advances, and the two frames compose. -/
theorem clsBlanksAndMarksDirty : Obligations.ClsBlanksAndMarksDirty := by
  intro s
  have frame : UnchangedBut [.disp, .dirty, .pc] s (s.setDisplay Display.blank true).advance :=
    ((unchangedBut_setDisplay s Display.blank true).mono (by simp)).trans
      ((unchangedBut_advance (s.setDisplay Display.blank true)).mono (by simp))
  exact ⟨_, exec_cls s, Display.pixel_blank, rfl, rfl, frame⟩

/-- Settles O16: both are the skip of `answers_skipIf`, on equality and on inequality with KK. -/
theorem skipsOnImmediate : Obligations.SkipsOnImmediate := fun x kk s =>
  ⟨answers_skipIf (exec_seImm s x kk) beq_iff_eq, answers_skipIf (exec_sneImm s x kk) bne_iff_ne⟩

/-- Settles O17: both are the skip of `answers_skipIf`, on equality and on inequality of the two registers. -/
theorem skipsOnRegisters : Obligations.SkipsOnRegisters := fun x y s =>
  ⟨answers_skipIf (exec_seReg s x y) beq_iff_eq, answers_skipIf (exec_sneReg s x y) bne_iff_ne⟩

end

section
/-!
The result of an instruction that writes one register and advances: its frame and what it answers, each said once.
-/

namespace Sys2Proof.Safety

open Sys2Proof Sys2Proof.Machine

variable (s : State)

/-- Writing a register changes the register file only. -/
theorem unchangedBut_setReg (x : RegIdx) (v : Byte) : UnchangedBut [.regs] s (s.setReg x v) := by
  simp [UnchangedBut, State.stackEntry, State.key]

/-- A result to register X changes the register file and PC only. -/
theorem unchangedBut_finish (x : RegIdx) (v : Byte) : UnchangedBut [.regs, .pc] s (s.finish x v) :=
  ((unchangedBut_setReg s x v).mono (by simp)).trans ((unchangedBut_advance (s.setReg x v)).mono (by simp))

/-- A result to register X keeps every other register, the flag register among them (R21). -/
theorem keepsRegs_finish (x : RegIdx) (v : Byte) : KeepsRegs [x] s (s.finish x v) := by
  intro r hr
  rw [State.finish_reg, if_neg (List.ne_of_not_mem_cons hr)]

variable {s}

/-- An instruction that finishes with `v` in register X: whatever `p` says of `v`, it says of the register after, and
everything else but PC is kept. The one argument behind R122 to R127. -/
theorem answers_finish {a : Answer} {x : RegIdx} {v : Byte} {p : Byte → Prop} (ha : a = .next (s.finish x v))
    (hv : p v) :
    Answers a fun t => p (t.reg x) ∧ KeepsRegs [x] s t ∧ t.pc = s.pc + 2 ∧ UnchangedBut [.regs, .pc] s t := by
  have hreg : (s.finish x v).reg x = v := by
    rw [State.finish_reg, if_pos rfl]
  exact ⟨s.finish x v, ha, hreg.symm ▸ hv, keepsRegs_finish s x v, rfl, unchangedBut_finish s x v⟩

/-- `answers_finish` for a value given bit by bit from registers X and Y by `f` (R124 to R127). -/
theorem answers_finish_bitwise {a : Answer} {x : RegIdx} {v : Byte} (y : RegIdx) (f : Bool → Bool → Bool)
    (ha : a = .next (s.finish x v)) (hv : ∀ k, v.getLsbD k = f ((s.reg x).getLsbD k) ((s.reg y).getLsbD k)) :
    Answers a fun t =>
      (∀ k, k < 8 → (t.reg x).getLsbD k = f ((s.reg x).getLsbD k) ((s.reg y).getLsbD k)) ∧
      KeepsRegs [x] s t ∧ t.pc = s.pc + 2 ∧ UnchangedBut [.regs, .pc] s t :=
  answers_finish (p := fun b => ∀ k, k < 8 → b.getLsbD k = f ((s.reg x).getLsbD k) ((s.reg y).getLsbD k)) ha
    fun k _ => hv k

end Sys2Proof.Safety
end

section
/-!
What the loads, ADD VX, KK and the bitwise instructions answer, and the obligations about them (R122 to R127).
-/

open Sys2Proof Sys2Proof.Machine Sys2Proof.Safety

namespace Sys2Proof.Machine

variable (s : State)

theorem exec_ldImm (x : RegIdx) (kk : Byte) : exec (.ldImm x kk) s = .next (s.finish x kk) := rfl

theorem exec_addImm (x : RegIdx) (kk : Byte) :
    exec (.addImm x kk) s = .next (s.finish x (addCarry (s.reg x) kk).value) := rfl

theorem exec_ldReg (x y : RegIdx) : exec (.ldReg x y) s = .next (s.finish x (s.reg y)) := rfl

theorem exec_orReg (x y : RegIdx) : exec (.orReg x y) s = .next (s.finish x (s.reg x ||| s.reg y)) := rfl

theorem exec_andReg (x y : RegIdx) : exec (.andReg x y) s = .next (s.finish x (s.reg x &&& s.reg y)) := rfl

theorem exec_xorReg (x y : RegIdx) : exec (.xorReg x y) s = .next (s.finish x (s.reg x ^^^ s.reg y)) := rfl

end Sys2Proof.Machine

/-- Settles O20: the finished value is KK itself. -/
theorem ldImmediateSetsRegister : Obligations.LdImmediateSetsRegister := fun x kk s =>
  answers_finish (p := (· = kk)) (exec_ldImm s x kk) rfl

/-- Settles O21: the finished value is the sum of `addCarry`, whose carry goes nowhere. -/
theorem addImmediateWrapsWithoutFlag : Obligations.AddImmediateWrapsWithoutFlag := fun x kk s =>
  answers_finish (p := fun v => v.toNat = ((s.reg x).toNat + kk.toNat) % 256) (exec_addImm s x kk)
    (addCarry_value (s.reg x) kk)

/-- Settles O22: each of the four finishes with a value whose bits the library's bit-vector lemmas give. -/
theorem copyAndBitwiseOps : Obligations.CopyAndBitwiseOps := fun x y s =>
  ⟨answers_finish_bitwise y (fun _ b => b) (exec_ldReg s x y) fun _ => rfl,
    answers_finish_bitwise y (fun a b => a || b) (exec_orReg s x y) fun _ => BitVec.getLsbD_or,
    answers_finish_bitwise y (fun a b => a && b) (exec_andReg s x y) fun _ => BitVec.getLsbD_and,
    answers_finish_bitwise y (fun a b => a != b) (exec_xorReg s x y) fun _ => BitVec.getLsbD_xor⟩

end

section
/-!
What LD I, NNN answers, with the frame of writing I, and the obligation about it (R140).
-/

open Sys2Proof Sys2Proof.Machine Sys2Proof.Safety

namespace Sys2Proof.Safety

variable (s : State)

/-- Writing I changes I only. -/
theorem unchangedBut_setIndex (v : Word) : UnchangedBut [.index] s (s.setIndex v) := by
  simp [UnchangedBut, State.stackEntry, State.key]

/-- Writing I and advancing changes I and PC only: the frame of an instruction whose one result goes to I. -/
theorem unchangedBut_setIndex_advance (v : Word) : UnchangedBut [.index, .pc] s (s.setIndex v).advance :=
  ((unchangedBut_setIndex s v).mono (by simp)).trans ((unchangedBut_advance (s.setIndex v)).mono (by simp))

end Sys2Proof.Safety

namespace Sys2Proof.Machine

theorem exec_ldI (s : State) (nnn : Addr) : exec (.ldI nnn) s = .next (s.setIndex (zextAddr nnn)).advance := rfl

end Sys2Proof.Machine

/-- Settles O28: I receives NNN zero-extended, which keeps its value, and the frames of writing I and of advancing
compose. -/
theorem setIndexLoadsAddress : Obligations.SetIndexLoadsAddress := fun nnn s =>
  ⟨_, exec_ldI s nnn, zextAddr_toNat nnn, rfl, unchangedBut_setIndex_advance s (zextAddr nnn)⟩

end

section
/-!
The frames of the operations that set a timer, and of advancing after any operation whose frame is known (R166, R167).
-/

namespace Sys2Proof.Safety

open Sys2Proof Sys2Proof.Machine

/-- Advancing after a change adds PC, and nothing more, to what the change may alter (R10). -/
theorem UnchangedBut.advance {ws : List Part} {s t : State} (h : UnchangedBut ws s t) :
    UnchangedBut (ws ++ [.pc]) s t.advance :=
  (h.mono (List.subset_append_left ws [.pc])).trans
    ((unchangedBut_advance t).mono (List.subset_append_right ws [.pc]))

variable (s : State)

/-- Setting the delay timer changes DT only. -/
theorem unchangedBut_setDt (v : Byte) : UnchangedBut [.dt] s (s.setDt v) := by
  simp [UnchangedBut, State.stackEntry, State.key]

/-- Setting the sound timer changes ST only: the tone is the tick's (R231), so no event is output. -/
theorem unchangedBut_setSt (v : Byte) : UnchangedBut [.st] s (s.setSt v) := by
  simp [UnchangedBut, State.stackEntry, State.key]

end Sys2Proof.Safety
end

section
/-!
What the three timer instructions answer, and the obligations about them (R164, R166, R167).
-/

open Sys2Proof Sys2Proof.Machine Sys2Proof.Safety

namespace Sys2Proof.Machine

variable (s : State)

theorem exec_ldVxDt (x : RegIdx) : exec (.ldVxDt x) s = .next (s.finish x s.dt) := rfl

theorem exec_ldDtVx (x : RegIdx) : exec (.ldDtVx x) s = .next (s.setDt (s.reg x)).advance := rfl

theorem exec_ldStVx (x : RegIdx) : exec (.ldStVx x) s = .next (s.setSt (s.reg x)).advance := rfl

end Sys2Proof.Machine

/-- Settles O34: the finished value is DT itself, and the frame of a finish keeps DT. -/
theorem readDelayTimer : Obligations.ReadDelayTimer := fun x s =>
  answers_finish (p := (· = s.dt)) (exec_ldVxDt s x) rfl

/-- Settles O37: each sets its timer to register X, then advances, and the two frames compose. -/
theorem setTimers : Obligations.SetTimers := fun x s =>
  ⟨⟨_, exec_ldDtVx s x, rfl, rfl, (unchangedBut_setDt s (s.reg x)).advance⟩,
    ⟨_, exec_ldStVx s x, rfl, rfl, (unchangedBut_setSt s (s.reg x)).advance⟩⟩

end

section
/-!
What setting a key and acknowledging a frame change: each key afterwards, and the two frames (R232, R233).
-/

namespace Sys2Proof.Machine

open Sys2Proof

/-- `set_key` sets the key it names, and the other keys read as before (R232). -/
theorem State.key_setKey (k j : Key) (b : Bool) (s : State) :
    (setKey k b s).key j = if j = k then b else s.key j := by
  simp only [State.key, setKey_keys, Fin.getElem_fin, Vector.getElem_set, Fin.val_inj, eq_comm]

end Sys2Proof.Machine

namespace Sys2Proof.Safety

open Sys2Proof Sys2Proof.Machine

/-- Setting a key changes the key file only. -/
theorem unchangedBut_setKey (k : Key) (b : Bool) (s : State) : UnchangedBut [.keys] s (setKey k b s) := by
  simp [UnchangedBut, State.reg, State.stackEntry]

/-- Acknowledging a frame changes the dirty mark only: the display is replaced by itself. -/
theorem unchangedBut_ackFrame (s : State) : UnchangedBut [.dirty] s (ackFrame s) := by
  simp [UnchangedBut, ackFrame, State.stackEntry, State.key]

end Sys2Proof.Safety
end

section
/-!
What the transactions `set_key` and `ack_frame` answer once the core has been reset, and the obligation about them
(R232, R233).
-/

open Sys2Proof Sys2Proof.Machine Sys2Proof.Safety

namespace Sys2Proof.Machine

theorem transact_setKey (k : Key) (b : Bool) (s : State) :
    transact (.setKey k b) (some s) = .next (setKey k b s, .silent) := rfl

theorem transact_ackFrame (s : State) : transact .ackFrame (some s) = .next (ackFrame s, .silent) := rfl

end Sys2Proof.Machine

/-- Settles O46: `State.key_setKey` gives the named key and the others, `ackFrame` clears dirty by definition, and each
transaction answers with the operation whose frame is known. -/
theorem hostSetsKeysAndClearsDirty : Obligations.HostSetsKeysAndClearsDirty := by
  intro k b s
  have named : (setKey k b s).key k = b := by
    rw [State.key_setKey, if_pos rfl]
  have others : ∀ j, j ≠ k → (setKey k b s).key j = s.key j := fun j hj => by
    rw [State.key_setKey, if_neg hj]
  exact ⟨⟨_, transact_setKey k b s, named, others, unchangedBut_setKey k b s⟩,
    ⟨_, transact_ackFrame s, rfl, unchangedBut_ackFrame s⟩⟩

end

section
/-!
Each family of the opcode map on packed words, and what the family decoders accept (R75 to R77).
-/

namespace Sys2Proof

/-! ### A packed word goes to its family's decoder -/

theorem decode_packXYN_alu (x y : RegIdx) (n : Count) : decode (packXYN 0x8 x y n) = decodeAlu n x y := by
  rw [decode_op8 (fieldOp_packXYN _ _ _ _), fieldN_packXYN, fieldX_packXYN, fieldY_packXYN]

theorem decode_packXK_key (x : RegIdx) (kk : Byte) : decode (packXK 0xE x kk) = decodeKey kk x := by
  rw [decode_opE (fieldOp_packXK _ _ _), fieldKK_packXK, fieldX_packXK]

theorem decode_packXK_misc (x : RegIdx) (kk : Byte) : decode (packXK 0xF x kk) = decodeMisc kk x := by
  rw [decode_opF (fieldOp_packXK _ _ _), fieldKK_packXK, fieldX_packXK]

/-- Family 0 gives SYS on every NNN but the two of rows 2 and 3, whose words are `packA 0 0x0E0` and `packA 0 0x0EE`. -/
theorem decode_packA_sys {nnn : Addr} (h0 : nnn ≠ 0x0E0) (hE : nnn ≠ 0x0EE) :
    decode (packA 0x0 nnn) = .instr (.sys nnn) := by
  have word_ne {m : Addr} (h : nnn ≠ m) : packA 0x0 nnn ≠ packA 0x0 m := fun e =>
    h (by simpa using congrArg fieldNNN e)
  have not_cls : packA 0x0 nnn ≠ 0x00E0 := word_ne h0
  have not_ret : packA 0x0 nnn ≠ 0x00EE := word_ne hE
  rw [decode_op0 (fieldOp_packA _ _), decodeSys, if_neg not_cls, if_neg not_ret, fieldNNN_packA]

/-! ### What a family's decoder accepts is the instruction of the word -/

/-- `w` is the word of the instruction `i` of the map. -/
def IsWordOf (w : Word) (i : Instr) : Prop := encode i = w ∧ i.wellFormed = true

theorem IsWordOf.of_decode {w : Word} {i j : Instr} (hj : decode w = .instr j)
    (hi : decode w = .instr i) (hw : IsWordOf w j) : IsWordOf w i := by
  cases hj.symm.trans hi
  exact hw

section

variable {w : Word} {op : BitVec 4} (h : fieldOp w = op)

include h

theorem packA_of_fieldOp : packA op (fieldNNN w) = w := h ▸ packA_fields w
theorem packXK_of_fieldOp : packXK op (fieldX w) (fieldKK w) = w := h ▸ packXK_fields w
theorem packXYN_of_fieldOp : packXYN op (fieldX w) (fieldY w) (fieldN w) = w := h ▸ packXYN_fields w

end

theorem isWordOf_of_decodeSys {w : Word} {i : Instr} (hop : fieldOp w = 0x0) (h : decodeSys w = .instr i) :
    IsWordOf w i := by
  have hw : packA 0x0 (fieldNNN w) = w := packA_of_fieldOp hop
  unfold decodeSys at h
  split at h
  · cases h
    exact ⟨Eq.symm ‹w = 0x00E0›, rfl⟩
  split at h
  · cases h
    exact ⟨Eq.symm ‹w = 0x00EE›, rfl⟩
  · cases h
    have h0 : fieldNNN w ≠ 0x0E0 := fun e => ‹¬ w = 0x00E0› (by rw [← hw, e]; rfl)
    have hE : fieldNNN w ≠ 0x0EE := fun e => ‹¬ w = 0x00EE› (by rw [← hw, e]; rfl)
    exact ⟨hw, (Bool.and_eq_true _ _).mpr ⟨bne_iff_ne.2 h0, bne_iff_ne.2 hE⟩⟩

theorem isWordOf_of_decodeAlu {n : Count} {x y : RegIdx} {i : Instr} (h : decodeAlu n x y = .instr i) :
    IsWordOf (packXYN 0x8 x y n) i := by
  unfold decodeAlu at h
  split at h <;> cases h <;> exact ⟨rfl, rfl⟩

theorem isWordOf_of_decodeKey {kk : Byte} {x : RegIdx} {i : Instr} (h : decodeKey kk x = .instr i) :
    IsWordOf (packXK 0xE x kk) i := by
  unfold decodeKey at h
  split_ifs at h with hkk hkk <;> cases h <;> subst hkk <;> exact ⟨rfl, rfl⟩

theorem isWordOf_of_decodeMisc {kk : Byte} {x : RegIdx} {i : Instr} (h : decodeMisc kk x = .instr i) :
    IsWordOf (packXK 0xF x kk) i := by
  unfold decodeMisc at h
  split_ifs at h with hkk hkk hkk hkk hkk hkk hkk hkk hkk <;> cases h <;> subst hkk <;> exact ⟨rfl, rfl⟩

/-- A strict family accepts the low nibble 0 only. -/
theorem isWordOf_of_decodeStrict {op : BitVec 4} {n : Count} {x y : RegIdx} {i j : Instr}
    (h : decodeStrict n j = .instr i) (hj : IsWordOf (packXYN op x y 0x0) j) : IsWordOf (packXYN op x y n) i := by
  rw [decodeStrict_eq] at h
  split at h
  · cases h
    rwa [‹n = 0›]
  · cases h

/-! ### What a family's decoder leaves Unknown (R77) -/

theorem decodeSys_ne_unknown (w : Word) : decodeSys w ≠ .unknown := by
  unfold decodeSys
  split_ifs <;> simp

theorem decodeStrict_eq_unknown {n : Count} {i : Instr} : decodeStrict n i = .unknown ↔ n.val ≠ 0 := by
  rw [decodeStrict_eq]
  split <;> simp [*]

theorem decodeAlu_eq_unknown {n : Count} {x y : RegIdx} :
    decodeAlu n x y = .unknown ↔ n.val ∈ [0x8, 0x9, 0xA, 0xB, 0xC, 0xD, 0xF] := by
  fin_cases n <;> simp [decodeAlu]

theorem decodeKey_eq_unknown {kk : Byte} {x : RegIdx} : decodeKey kk x = .unknown ↔ kk.toNat ∉ [0x9E, 0xA1] := by
  unfold decodeKey
  split_ifs <;> simp_all [BitVec.toNat_eq]

theorem decodeMisc_eq_unknown {kk : Byte} {x : RegIdx} :
    decodeMisc kk x = .unknown ↔ kk.toNat ∉ [0x07, 0x0A, 0x15, 0x18, 0x1E, 0x29, 0x33, 0x55, 0x65] := by
  unfold decodeMisc
  split_ifs <;> simp_all [BitVec.toNat_eq]

/-- The sixteen families. -/
theorem nibble_cases (op : BitVec 4) :
    op = 0x0 ∨ op = 0x1 ∨ op = 0x2 ∨ op = 0x3 ∨ op = 0x4 ∨ op = 0x5 ∨ op = 0x6 ∨ op = 0x7 ∨
    op = 0x8 ∨ op = 0x9 ∨ op = 0xA ∨ op = 0xB ∨ op = 0xC ∨ op = 0xD ∨ op = 0xE ∨ op = 0xF := by
  revert op
  decide

end Sys2Proof
end

section
/-!
The obligations about decoding and encoding (R75 to R77).
-/

open Sys2Proof Sys2Proof.Machine Sys2Proof.Safety

/-- Settles O1: each constructor's word lies in its family, whose decoder reads the packed fields back. -/
theorem decodeInvertsEncode : Obligations.DecodeInvertsEncode := by
  intro i hi
  cases i with
  | sys nnn =>
    simp only [Instr.wellFormed, Bool.and_eq_true, bne_iff_ne] at hi
    exact decode_packA_sys hi.1 hi.2
  | cls => rfl
  | ret => rfl
  | jp nnn => exact (decode_op1 (Laws.OpNibble.jp nnn)).trans (by simp [encode])
  | call nnn => exact (decode_op2 (Laws.OpNibble.call nnn)).trans (by simp [encode])
  | seImm x kk => exact (decode_op3 (Laws.OpNibble.seImm x kk)).trans (by simp [encode])
  | sneImm x kk => exact (decode_op4 (Laws.OpNibble.sneImm x kk)).trans (by simp [encode])
  | seReg x y => exact (decode_op5 (Laws.OpNibble.seReg x y)).trans (by simp [encode, decodeStrict_eq])
  | sneReg x y => exact (decode_op9 (Laws.OpNibble.sneReg x y)).trans (by simp [encode, decodeStrict_eq])
  | ldImm x kk => exact (decode_op6 (Laws.OpNibble.ldImm x kk)).trans (by simp [encode])
  | addImm x kk => exact (decode_op7 (Laws.OpNibble.addImm x kk)).trans (by simp [encode])
  | ldReg x y => exact decode_packXYN_alu x y 0x0
  | orReg x y => exact decode_packXYN_alu x y 0x1
  | andReg x y => exact decode_packXYN_alu x y 0x2
  | xorReg x y => exact decode_packXYN_alu x y 0x3
  | addReg x y => exact decode_packXYN_alu x y 0x4
  | subReg x y => exact decode_packXYN_alu x y 0x5
  | shr x y => exact decode_packXYN_alu x y 0x6
  | subnReg x y => exact decode_packXYN_alu x y 0x7
  | shl x y => exact decode_packXYN_alu x y 0xE
  | ldI nnn => exact (decode_opA (Laws.OpNibble.ldI nnn)).trans (by simp [encode])
  | jpV0 nnn => exact (decode_opB (Laws.OpNibble.jpV0 nnn)).trans (by simp [encode])
  | rnd x kk => exact (decode_opC (Laws.OpNibble.rnd x kk)).trans (by simp [encode])
  | drw x y n => exact (decode_opD (Laws.OpNibble.drw x y n)).trans (by simp [encode])
  | skp x => exact decode_packXK_key x 0x9E
  | sknp x => exact decode_packXK_key x 0xA1
  | ldVxDt x => exact decode_packXK_misc x 0x07
  | ldVxK x => exact decode_packXK_misc x 0x0A
  | ldDtVx x => exact decode_packXK_misc x 0x15
  | ldStVx x => exact decode_packXK_misc x 0x18
  | addI x => exact decode_packXK_misc x 0x1E
  | ldF x => exact decode_packXK_misc x 0x29
  | ldB x => exact decode_packXK_misc x 0x33
  | ldMemVx x => exact decode_packXK_misc x 0x55
  | ldVxMem x => exact decode_packXK_misc x 0x65

/-- Settles O2: by the family of the word; a word is the packing of its fields, and each family's decoder accepts only
the instruction of the packed word. -/
theorem encodeInvertsDecode : Obligations.EncodeInvertsDecode := by
  intro w i h
  show IsWordOf w i
  rcases nibble_cases (fieldOp w) with h0 | h1 | h2 | h3 | h4 | h5 | h6 | h7 | h8 | h9 | hA | hB | hC | hD | hE | hF
  · exact isWordOf_of_decodeSys h0 ((decode_op0 h0).symm.trans h)
  · exact .of_decode (decode_op1 h1) h ⟨packA_of_fieldOp h1, rfl⟩
  · exact .of_decode (decode_op2 h2) h ⟨packA_of_fieldOp h2, rfl⟩
  · exact .of_decode (decode_op3 h3) h ⟨packXK_of_fieldOp h3, rfl⟩
  · exact .of_decode (decode_op4 h4) h ⟨packXK_of_fieldOp h4, rfl⟩
  · rw [← packXYN_of_fieldOp h5]
    exact isWordOf_of_decodeStrict ((decode_op5 h5).symm.trans h) ⟨rfl, rfl⟩
  · exact .of_decode (decode_op6 h6) h ⟨packXK_of_fieldOp h6, rfl⟩
  · exact .of_decode (decode_op7 h7) h ⟨packXK_of_fieldOp h7, rfl⟩
  · rw [← packXYN_of_fieldOp h8]
    exact isWordOf_of_decodeAlu ((decode_op8 h8).symm.trans h)
  · rw [← packXYN_of_fieldOp h9]
    exact isWordOf_of_decodeStrict ((decode_op9 h9).symm.trans h) ⟨rfl, rfl⟩
  · exact .of_decode (decode_opA hA) h ⟨packA_of_fieldOp hA, rfl⟩
  · exact .of_decode (decode_opB hB) h ⟨packA_of_fieldOp hB, rfl⟩
  · exact .of_decode (decode_opC hC) h ⟨packXK_of_fieldOp hC, rfl⟩
  · exact .of_decode (decode_opD hD) h ⟨packXYN_of_fieldOp hD, rfl⟩
  · rw [← packXK_of_fieldOp hE]
    exact isWordOf_of_decodeKey ((decode_opE hE).symm.trans h)
  · rw [← packXK_of_fieldOp hF]
    exact isWordOf_of_decodeMisc ((decode_opF hF).symm.trans h)

/-- Settles O3: by the family of the word, each with the lemma that says what its decoder leaves Unknown. -/
theorem unknownWordsAreExactlyThese : Obligations.UnknownWordsAreExactlyThese := by
  intro w
  simp only [← fieldOp_toNat, ← fieldN_val, ← fieldKK_toNat]
  rcases nibble_cases (fieldOp w) with h0 | h1 | h2 | h3 | h4 | h5 | h6 | h7 | h8 | h9 | hA | hB | hC | hD | hE | hF
  · simp [h0, decode_op0, decodeSys_ne_unknown]
  · simp [h1, decode_op1]
  · simp [h2, decode_op2]
  · simp [h3, decode_op3]
  · simp [h4, decode_op4]
  · simp [h5, decode_op5, decodeStrict_eq_unknown]
  · simp [h6, decode_op6]
  · simp [h7, decode_op7]
  · simp [h8, decode_op8, decodeAlu_eq_unknown]
  · simp [h9, decode_op9, decodeStrict_eq_unknown]
  · simp [hA, decode_opA]
  · simp [hB, decode_opB]
  · simp [hC, decode_opC]
  · simp [hD, decode_opD]
  · simp [hE, decode_opE, decodeKey_eq_unknown]
  · simp [hF, decode_opF, decodeMisc_eq_unknown]

end

section
/-!
Words given as numbers: the encoder's word of a pattern's value, and the obligations about patterns (R76).
-/

open Sys2Proof Sys2Proof.Machine Sys2Proof.Safety

namespace Sys2Proof.Safety

/-- The number of an instruction's word gives the word back. -/
theorem ofNat_eq_encode {i : Instr} {n : Nat} (hn : (encode i).toNat = n) : BitVec.ofNat 16 n = encode i := by
  rw [← hn, BitVec.ofNat_toNat, BitVec.setWidth_eq]

/-- A pattern with the value of a well-formed instruction's word decodes to that instruction: `decodeInvertsEncode`
read on numbers. -/
theorem encodes_of_toNat {i : Instr} {n : Nat} (hi : i.wellFormed = true) (hn : (encode i).toNat = n) :
    Encodes n i := by
  rw [Encodes, ofNat_eq_encode hn]
  exact decodeInvertsEncode i hi

/-- A word whose value is a pattern's decodes as the pattern does. -/
theorem decode_of_encodes {w : Word} {n : Nat} {i : Instr} (hw : w.toNat = n) (hn : Encodes n i) :
    decode w = .instr i := by
  rwa [Encodes, ← hw, BitVec.ofNat_toNat, BitVec.setWidth_eq] at hn

end Sys2Proof.Safety

/-- Settles O4: each word has the value of its instruction's word; 0x5121 is strict family 5 with N = 1. -/
theorem sampleWordsDecode : Obligations.SampleWordsDecode :=
  ⟨encodes_of_toNat rfl rfl, encodes_of_toNat rfl rfl, encodes_of_toNat rfl rfl, encodes_of_toNat rfl rfl,
    encodes_of_toNat rfl rfl, encodes_of_toNat rfl rfl, encodes_of_toNat rfl rfl, encodes_of_toNat rfl rfl,
    encodes_of_toNat rfl rfl, (decode_op5 rfl).trans (decodeStrict_eq_unknown.2 (by decide))⟩

/-- Settles O5: the value of every pattern is that of its instruction's word, by the format of the row. -/
theorem opcodeMapPatternsDecode : Obligations.OpcodeMapPatternsDecode := by
  refine ⟨fun nnn => ⟨fun h0 hE => ?_, ?_, ?_, ?_, ?_⟩, encodes_of_toNat rfl rfl, encodes_of_toNat rfl rfl,
    fun x kk => ⟨?_, ?_, ?_, ?_, ?_⟩, fun x y => ⟨?_, ?_, ?_, ?_, ?_, ?_, ?_, ?_, ?_, ?_, ?_, fun n => ?_⟩,
    fun x => ⟨?_, ?_, ?_, ?_, ?_, ?_, ?_, ?_, ?_, ?_, ?_⟩⟩
  -- Format A
  · exact encodes_of_toNat ((Bool.and_eq_true _ _).mpr ⟨bne_iff_ne.2 h0, bne_iff_ne.2 hE⟩)
      ((packA_toNat 0x0 nnn).trans (Nat.zero_add _))
  · exact encodes_of_toNat rfl (packA_toNat 0x1 nnn)
  · exact encodes_of_toNat rfl (packA_toNat 0x2 nnn)
  · exact encodes_of_toNat rfl (packA_toNat 0xA nnn)
  · exact encodes_of_toNat rfl (packA_toNat 0xB nnn)
  -- Format XK
  · exact encodes_of_toNat rfl (packXK_toNat 0x3 x kk)
  · exact encodes_of_toNat rfl (packXK_toNat 0x4 x kk)
  · exact encodes_of_toNat rfl (packXK_toNat 0x6 x kk)
  · exact encodes_of_toNat rfl (packXK_toNat 0x7 x kk)
  · exact encodes_of_toNat rfl (packXK_toNat 0xC x kk)
  -- Formats XY and XYN
  · exact encodes_of_toNat rfl (packXYN_toNat 0x5 x y 0x0)
  · exact encodes_of_toNat rfl (packXYN_toNat 0x9 x y 0x0)
  · exact encodes_of_toNat rfl (packXYN_toNat 0x8 x y 0x0)
  · exact encodes_of_toNat rfl (packXYN_toNat 0x8 x y 0x1)
  · exact encodes_of_toNat rfl (packXYN_toNat 0x8 x y 0x2)
  · exact encodes_of_toNat rfl (packXYN_toNat 0x8 x y 0x3)
  · exact encodes_of_toNat rfl (packXYN_toNat 0x8 x y 0x4)
  · exact encodes_of_toNat rfl (packXYN_toNat 0x8 x y 0x5)
  · exact encodes_of_toNat rfl (packXYN_toNat 0x8 x y 0x7)
  · exact encodes_of_toNat rfl (packXYN_toNat 0x8 x y 0x6)
  · exact encodes_of_toNat rfl (packXYN_toNat 0x8 x y 0xE)
  · exact encodes_of_toNat rfl (packXYN_toNat 0xD x y n)
  -- Format XS
  · exact encodes_of_toNat rfl (packXK_toNat 0xE x 0x9E)
  · exact encodes_of_toNat rfl (packXK_toNat 0xE x 0xA1)
  · exact encodes_of_toNat rfl (packXK_toNat 0xF x 0x07)
  · exact encodes_of_toNat rfl (packXK_toNat 0xF x 0x0A)
  · exact encodes_of_toNat rfl (packXK_toNat 0xF x 0x15)
  · exact encodes_of_toNat rfl (packXK_toNat 0xF x 0x18)
  · exact encodes_of_toNat rfl (packXK_toNat 0xF x 0x1E)
  · exact encodes_of_toNat rfl (packXK_toNat 0xF x 0x29)
  · exact encodes_of_toNat rfl (packXK_toNat 0xF x 0x33)
  · exact encodes_of_toNat rfl (packXK_toNat 0xF x 0x55)
  · exact encodes_of_toNat rfl (packXK_toNat 0xF x 0x65)

end

section
/-!
The error action as the statements speak of it, and frames one after another (R201).
-/

namespace Sys2Proof.Safety

open Sys2Proof Sys2Proof.Machine

/-- Two changes one after another, each with its own frame. -/
theorem UnchangedBut.append {ws vs : List Part} {s t u : State} (h : UnchangedBut ws s t) (h' : UnchangedBut vs t u) :
    UnchangedBut (ws ++ vs) s u :=
  (h.mono (List.subset_append_left ws vs)).trans (h'.mono (List.subset_append_right ws vs))

variable (s : State)

/-- The error action changes `ERR`, the trace and PC only. -/
theorem unchangedBut_raise (c : Cause) (w : Option Word) : UnchangedBut [.err, .events, .pc] s (raise c w s) := by
  simp [UnchangedBut, State.reg, State.stackEntry, State.key]

/-- FETCH_RANGE keeps PC too. -/
theorem unchangedBut_raise_fetchRange (w : Option Word) :
    UnchangedBut [.err, .events] s (raise .fetchRange w s) := by
  simp [UnchangedBut, State.reg, State.stackEntry, State.key, raise_pc]

theorem raise_err_getLsbD (c : Cause) (w : Option Word) {k : Nat} (hk : k < 8) :
    (raise c w s).err.getLsbD k = (s.err.getLsbD k || k + 1 == c.code) := by
  rw [raise_err, latch_getLsbD _ _ _ hk]

/-- No cause has the reserved bit 7 (R35, R200). -/
theorem raise_err_bit7 (c : Cause) (w : Option Word) : (raise c w s).err.getLsbD 7 = s.err.getLsbD 7 := by
  have no_bit7 : (7 + 1 == c.code) = false := by cases c <;> rfl
  rw [raise_err_getLsbD s c w (by norm_num), no_bit7, Bool.or_false]

/-- Some bit of `ERR` is set after an error: the cause's (R201). -/
theorem raise_err_ne_zero (c : Cause) (w : Option Word) : (raise c w s).err ≠ 0 := by
  have hcode : c.code - 1 < 8 ∧ (c.code - 1 + 1 == c.code) = true := by cases c <;> decide
  intro hzero
  have hset := raise_err_getLsbD s c w hcode.1
  rw [hzero, hcode.2, Bool.or_true] at hset
  simp at hset

theorem errorTaken_raise (c : Cause) (w : Option Word) : ErrorTaken c w s (raise c w s) :=
  ⟨unchangedBut_raise s c w, fun _ hk => raise_err_getLsbD s c w hk, raise_events s c w, raise_pc s c w⟩

variable {s}

/-- An instruction that raises `c` takes the error with its own word in the event. -/
theorem errs_raiseIn {a : Answer} {c : Cause} {i : Instr} {n : Nat} (ha : a = raiseIn c i s)
    (hn : (encode i).toNat = n) : Errs a c n s := by
  refine ⟨_, ha, ?_⟩
  rw [ofNat_eq_encode hn]
  exact errorTaken_raise s c (some (encode i))

end Sys2Proof.Safety
end

section
/-!
The obligations about a step as such and about the errors that are no instruction's own (R201, R202, R207, R223).
-/

open Sys2Proof Sys2Proof.Machine Sys2Proof.Safety

namespace Sys2Proof.Machine

variable {s : State}

theorem fetch_of_fetchesWord {w : Word} (h : FetchesWord s w) : s.fetch = some w := by
  obtain ⟨hlo, hhi, hw⟩ := h
  exact (State.fetch_eq_some s w).2 ⟨⟨hlo, hhi⟩, hw⟩

/-- A step on a fetched word that does not decode. -/
theorem step_of_unknown {w : Word} (hf : s.fetch = some w) (hd : decode w = .unknown) :
    step s = .next (raise .unknownOpcode (some w) s) := by
  simp [step, runWord, hf, hd]

/-- A step where R74 refuses the fetch. -/
theorem step_of_fetch_refused (h : s.pc.toNat < 0x200 ∨ 0xFFE < s.pc.toNat) :
    step s = .next (raise .fetchRange none s) := by
  simp [step, (State.fetch_eq_none s).2 h]

theorem exec_sys (nnn : Addr) (s : State) : exec (.sys nnn) s = raiseIn .unknownOpcode (.sys nnn) s := rfl

end Sys2Proof.Machine

/-- Settles O6: the word FetchesWord speaks of is the word the step fetches. -/
theorem stepRunsDecodedInstruction : Obligations.StepRunsDecodedInstruction := fun s _ _ hw hd =>
  step_of_decode s (fetch_of_fetchesWord hw) hd

/-- Settles O9: `raise` is the error action, for every cause. -/
theorem errorActionIsReportedNoOp : Obligations.ErrorActionIsReportedNoOp := fun c w s => errorTaken_raise s c w

/-- Settles O11: SYS raises UNKNOWN_OPCODE, and its word is 0NNN. -/
theorem sysTakesUnknownOpcodePath : Obligations.SysTakesUnknownOpcodePath := fun nnn s =>
  errs_raiseIn (exec_sys nnn s) ((packA_toNat 0x0 nnn).trans (Nat.zero_add _))

/-- Settles O7: an Unknown word raises directly; SYS raises with its own word, which is the fetched one by
`encodeInvertsDecode`. -/
theorem unknownOpcodeIsReportedNoOp : Obligations.UnknownOpcodeIsReportedNoOp := by
  intro s w hw hd
  refine ⟨_, ?_, errorTaken_raise s .unknownOpcode (some w)⟩
  rcases hd with hd | ⟨nnn, hd⟩
  · exact step_of_unknown (fetch_of_fetchesWord hw) hd
  · rw [stepRunsDecodedInstruction s w _ hw hd, exec_sys, raiseIn, (encodeInvertsDecode w _ hd).1]

/-- Settles O8: the error keeps PC, so every later step meets the same refused fetch; by induction on the number of
steps. -/
theorem fetchRangeRepeats : Obligations.FetchRangeRepeats := by
  intro s hpc
  refine ⟨⟨_, step_of_fetch_refused hpc, errorTaken_raise s .fetchRange none⟩, fun n => ?_⟩
  induction n generalizing s with
  | zero => exact ⟨s, rfl, UnchangedBut.refl _ s, rfl⟩
  | succ n ih =>
    have kept : (raise .fetchRange none s).pc = s.pc := raise_pc s .fetchRange none
    obtain ⟨t, hrun, frame, hevents⟩ := ih (raise .fetchRange none s) (by rwa [kept])
    refine ⟨t, (run_succ (step_of_fetch_refused hpc)).trans hrun,
      (unchangedBut_raise_fetchRange s none).trans frame, ?_⟩
    rw [hevents, kept, raise_events, List.replicate_succ', List.append_assoc]
    rfl

end

section
/-!
The frames of the stack operations, and what RET, JP, CALL and JP V0 answer in each of their cases (R102 to R104, R141).
-/

namespace Sys2Proof.Safety

open Sys2Proof Sys2Proof.Machine

variable (s : State)

/-- A push changes the stack's entries and SP only. -/
theorem unchangedBut_push (a : Word) (h : s.sp.val < 16) : UnchangedBut [.stack, .sp] s (s.push a h) := by
  simp [UnchangedBut, State.reg, State.key]

/-- A pop changes SP only: the entry keeps its value (R26). -/
theorem unchangedBut_pop : UnchangedBut [.sp] s s.pop := by
  simp [UnchangedBut, State.reg, State.stackEntry, State.key]

end Sys2Proof.Safety

namespace Sys2Proof.Machine

open Sys2Proof

variable {s : State}

/-- An NNN is at most 0xFFF, so only the lower bound of a target can fail (R205). -/
theorem targetOk_addr {nnn : Addr} : targetOk nnn.toNat = true ↔ 0x200 ≤ nnn.toNat := by
  have := nnn.isLt
  rw [targetOk_iff]
  omega

theorem exec_ret (h : 0 < s.sp.val) : exec .ret s = .next (s.pop.setPc (s.top h + 2)) := dif_pos h

theorem exec_ret_underflow (h : s.sp.val = 0) : exec .ret s = raiseIn .stackUnderflow .ret s :=
  dif_neg (by omega)

theorem exec_jp {nnn : Addr} (h : 0x200 ≤ nnn.toNat) : exec (.jp nnn) s = .next (s.setPc (zextAddr nnn)) :=
  if_pos (targetOk_addr.2 h)

theorem exec_jp_refused {nnn : Addr} (h : nnn.toNat < 0x200) : exec (.jp nnn) s = raiseIn .badTarget (.jp nnn) s :=
  if_neg fun ok => Nat.not_le.2 h (targetOk_addr.1 ok)

theorem exec_call {nnn : Addr} (hsp : s.sp.val < 16) (h : 0x200 ≤ nnn.toNat) :
    exec (.call nnn) s = .next ((s.push s.pc hsp).setPc (zextAddr nnn)) :=
  (dif_pos hsp).trans (if_pos (targetOk_addr.2 h))

theorem exec_call_overflow {nnn : Addr} (hsp : s.sp.val = 16) :
    exec (.call nnn) s = raiseIn .stackOverflow (.call nnn) s :=
  dif_neg (by omega)

theorem exec_call_refused {nnn : Addr} (hsp : s.sp.val < 16) (h : nnn.toNat < 0x200) :
    exec (.call nnn) s = raiseIn .badTarget (.call nnn) s :=
  (dif_pos hsp).trans (if_neg fun ok => Nat.not_le.2 h (targetOk_addr.1 ok))

theorem exec_jpV0 {nnn : Addr} (h : targetOk (s.offsetTarget nnn) = true) :
    exec (.jpV0 nnn) s = .next (s.setPc (BitVec.ofNat 16 (s.offsetTarget nnn))) :=
  if_pos h

theorem exec_jpV0_refused {nnn : Addr} (h : ¬ targetOk (s.offsetTarget nnn) = true) :
    exec (.jpV0 nnn) s = raiseIn .badTarget (.jpV0 nnn) s :=
  if_neg h

end Sys2Proof.Machine
end

section
/-!
The obligations about control transfer (R102 to R104, R141, R254).
-/

open Sys2Proof Sys2Proof.Machine Sys2Proof.Safety

/-- Settles O13: the popped entry is `stack[k]` when SP = k + 1, and a pop keeps every entry. -/
theorem retPopsAndAddsTwo : Obligations.RetPopsAndAddsTwo := by
  intro s
  constructor
  · intro k hk
    have hsp : 0 < s.sp.val := by omega
    refine ⟨_, exec_ret hsp, ?_, ?_, (unchangedBut_pop s).append (unchangedBut_setPc _ _) |>.mono (by simp)⟩
    · rw [State.setPc_pc, State.top_eq s hsp k hk]
    · simp [hk]
  · intro hsp
    exact errs_raiseIn (exec_ret_underflow hsp) rfl

/-- Settles O14: by whether the target is at least 0x200. -/
theorem jpSetsPc : Obligations.JpSetsPc := fun nnn s =>
  ⟨fun h => ⟨_, exec_jp h, zextAddr_toNat nnn, unchangedBut_setPc s _⟩,
    fun h => errs_raiseIn (exec_jp_refused h) (packA_toNat 0x1 nnn)⟩

/-- Settles O15: by the three cases of CALL; the push writes the entry at the old SP only. -/
theorem callPushesItsAddress : Obligations.CallPushesItsAddress := by
  intro nnn s
  refine ⟨fun k hk h => ?_, fun hsp => errs_raiseIn (exec_call_overflow hsp) (packA_toNat 0x2 nnn),
    fun hsp h => errs_raiseIn (exec_call_refused hsp h) (packA_toNat 0x2 nnn)⟩
  have hsp : s.sp.val < 16 := by omega
  have entry (j : Fin 16) : (s.push s.pc hsp).stackEntry j = if j = k then s.pc else s.stackEntry j := by
    rw [State.stackEntry_push, hk]
    simp only [Fin.ext_iff]
  refine ⟨_, exec_call hsp h, (entry k).trans (if_pos rfl), fun j hj => (entry j).trans (if_neg hj), ?_,
    zextAddr_toNat nnn, (unchangedBut_push s s.pc hsp).append (unchangedBut_setPc _ _)⟩
  simp [hk]

/-- Settles O19: the entry RET pops is the one CALL pushed, which is at the old SP. -/
theorem callThenRetReturnsAfterCall : Obligations.CallThenRetReturnsAfterCall := by
  intro nnn s hsp h
  have pops : 0 < ((s.push s.pc hsp).setPc (zextAddr nnn)).sp.val := Nat.succ_pos _
  refine ⟨_, exec_call hsp h, _, exec_ret pops, ?_, Fin.ext rfl, ?_⟩
  · have top : ((s.push s.pc hsp).setPc (zextAddr nnn)).top pops = s.pc :=
      (State.top_eq _ pops ⟨s.sp.val, hsp⟩ rfl).trans ((State.stackEntry_push s s.pc hsp _).trans (if_pos rfl))
    rw [State.setPc_pc, top]
  · simp [UnchangedBut, State.reg, State.key]

/-- Settles O18: the word is JP's with NNN = PC, a legal target, and setting PC to its own value changes nothing. -/
theorem selfJumpChangesNothing : Obligations.SelfJumpChangesNothing := by
  intro s w hw hself
  have ⟨hlo, hhi, _⟩ := hw
  have hnnn : (s.pc.setWidth 12).toNat = s.pc.toNat := by
    rw [BitVec.toNat_setWidth]
    omega
  have hword : (encode (.jp (s.pc.setWidth 12))).toNat = 0x1000 + s.pc.toNat := hnnn ▸ packA_toNat 0x1 _
  have hd : decode w = .instr (.jp (s.pc.setWidth 12)) := decode_of_encodes hself (encodes_of_toNat rfl hword)
  have htarget : zextAddr (s.pc.setWidth 12) = s.pc :=
    BitVec.eq_of_toNat_eq ((zextAddr_toNat _).trans hnnn)
  rw [stepRunsDecodedInstruction s w _ hw hd, exec_jp (hnnn ▸ hlo), htarget]
  rfl

/-- Settles O29: by whether the exact sum is a legal target, which then fits in 16 bits. -/
theorem jumpWithOffsetExactTarget : Obligations.JumpWithOffsetExactTarget := by
  intro nnn s
  have ok : targetOk (s.offsetTarget nnn) = true ↔ 0x200 ≤ s.offsetTarget nnn ∧ s.offsetTarget nnn ≤ 0xFFF :=
    targetOk_iff _
  constructor
  · intro hlo hhi
    refine ⟨_, exec_jpV0 (ok.2 ⟨hlo, hhi⟩), ?_, unchangedBut_setPc s _⟩
    have fits : s.offsetTarget nnn < 2 ^ 16 := Nat.lt_of_le_of_lt hhi (by norm_num)
    rw [State.setPc_pc, BitVec.toNat_ofNat, Nat.mod_eq_of_lt fits]
    rfl
  · intro h
    refine errs_raiseIn (exec_jpV0_refused fun hok => ?_) (packA_toNat 0xB nnn)
    obtain ⟨hlo, hhi⟩ := ok.1 hok
    exact h.elim (Nat.not_lt.2 hlo) (Nat.not_lt.2 hhi)

end

section
/-!
What the arithmetic, the shifts and RND answer, and the obligations about them (R128 to R132, R142).
-/

open Sys2Proof Sys2Proof.Machine Sys2Proof.Safety

namespace Sys2Proof.Machine

variable (s : State)

theorem exec_addReg (x y : RegIdx) :
    exec (.addReg x y) s = .next (s.finishFlagged x (addCarry (s.reg x) (s.reg y))) := rfl

theorem exec_subReg (x y : RegIdx) :
    exec (.subReg x y) s = .next (s.finishFlagged x (subNotBorrow (s.reg x) (s.reg y))) := rfl

theorem exec_subnReg (x y : RegIdx) :
    exec (.subnReg x y) s = .next (s.finishFlagged x (subNotBorrow (s.reg y) (s.reg x))) := rfl

theorem exec_shr (x y : RegIdx) : exec (.shr x y) s = .next (s.finishFlagged x (shiftRight (s.reg x))) := rfl

theorem exec_shl (x y : RegIdx) : exec (.shl x y) s = .next (s.finishFlagged x (shiftLeft (s.reg x))) := rfl

theorem exec_rnd (x : RegIdx) (kk : Byte) :
    exec (.rnd x kk) s = .next (s.nextDraw.finish x (Config.rnd s.draws &&& kk)) := rfl

/-! ### The flags as numbers, and the shifted values -/

theorem addCarry_flag (a b : Byte) :
    (flagByte (addCarry a b).flag).toNat = if a.toNat + b.toNat > 255 then 1 else 0 := by
  simp [flagByte_toNat, addCarry]

theorem subNotBorrow_flag (a b : Byte) :
    (flagByte (subNotBorrow a b).flag).toNat = if a.toNat ≥ b.toNat then 1 else 0 := by
  simp [flagByte_toNat, subNotBorrow]

theorem shiftRight_value (v : Byte) : (shiftRight v).value.toNat = v.toNat / 2 := by
  simp only [shiftRight, BitVec.toNat_ofNat]
  omega

theorem shiftRight_flag (v : Byte) : (flagByte (shiftRight v).flag).toNat = v.toNat % 2 := by
  have : v.toNat % 2 < 2 := Nat.mod_lt _ (by norm_num)
  rw [flagByte_toNat, shiftRight, ← BitVec.testBit_toNat, Nat.testBit_zero]
  split <;> simp_all

theorem shiftLeft_value (v : Byte) : (shiftLeft v).value.toNat = v.toNat * 2 % 256 := by
  simp [shiftLeft]

/-- Bit 7 of a byte is its quotient by 128. -/
theorem shiftLeft_flag (v : Byte) : (flagByte (shiftLeft v).flag).toNat = v.toNat / 128 := by
  have := v.isLt
  rw [flagByte_toNat, shiftLeft, ← BitVec.testBit_toNat, Nat.testBit_eq_decide_div_mod_eq]
  split <;> simp_all <;> omega

end Sys2Proof.Machine

namespace Sys2Proof.Safety

variable {s : State}

/-- A flagged result changes the register file and PC only. -/
theorem unchangedBut_finishFlagged (s : State) (x : RegIdx) (f : Flagged 8) :
    UnchangedBut [.regs, .pc] s (s.finishFlagged x f) :=
  ((unchangedBut_setReg s x f.value).trans (unchangedBut_setReg _ 0xF (flagByte f.flag))).advance

/-- An instruction that finishes with a flagged result: whatever `p` says of the value, it says of register X unless
X = 0xF; register 0xF holds the flag; the rest is kept. The one argument behind R128 to R132. -/
theorem answers_finishFlagged {a : Answer} {x : RegIdx} {f : Flagged 8} {p : Byte → Prop} {flag : Nat}
    (ha : a = .next (s.finishFlagged x f)) (hv : p f.value) (hf : (flagByte f.flag).toNat = flag) :
    Answers a fun t => (x ≠ 0xF → p (t.reg x)) ∧ (t.reg 0xF).toNat = flag ∧ KeepsRegs [x, 0xF] s t ∧
      t.pc = s.pc + 2 ∧ UnchangedBut [.regs, .pc] s t := by
  refine ⟨_, ha, fun hx => ?_, ?_, fun r hr => ?_, rfl, unchangedBut_finishFlagged s x f⟩
  · rwa [State.finishFlagged_reg, if_neg hx, if_pos rfl]
  · rwa [State.finishFlagged_reg, if_pos rfl]
  · obtain ⟨hx, hF⟩ : r ≠ x ∧ r ≠ 0xF := by simpa using hr
    rw [State.finishFlagged_reg, if_neg hF, if_neg hx]

end Sys2Proof.Safety

/-- Settles O23: the flagged result of `addCarry`. -/
theorem addRegistersCarries : Obligations.AddRegistersCarries := fun x y s =>
  answers_finishFlagged (p := fun v => v.toNat = ((s.reg x).toNat + (s.reg y).toNat) % 256) (exec_addReg s x y)
    (addCarry_value _ _) (addCarry_flag _ _)

/-- Settles O24: the flagged result of `subNotBorrow`. -/
theorem subRegistersNotBorrow : Obligations.SubRegistersNotBorrow := fun x y s =>
  answers_finishFlagged (p := fun v => (v.toNat : Int) = ((s.reg x).toNat - (s.reg y).toNat : Int) % 256)
    (exec_subReg s x y) (subNotBorrow_value _ _) (subNotBorrow_flag _ _)

/-- Settles O25: the flagged result of `subNotBorrow` with the operands exchanged. -/
theorem subnRegistersNotBorrow : Obligations.SubnRegistersNotBorrow := fun x y s =>
  answers_finishFlagged (p := fun v => (v.toNat : Int) = ((s.reg y).toNat - (s.reg x).toNat : Int) % 256)
    (exec_subnReg s x y) (subNotBorrow_value _ _) (subNotBorrow_flag _ _)

/-- Settles O26: the flagged result of `shiftRight` on register X. -/
theorem shiftRightFlagsBitZero : Obligations.ShiftRightFlagsBitZero := fun x y s =>
  answers_finishFlagged (p := fun v => v.toNat = (s.reg x).toNat / 2) (exec_shr s x y) (shiftRight_value _)
    (shiftRight_flag _)

/-- Settles O27: the flagged result of `shiftLeft` on register X. -/
theorem shiftLeftFlagsBitSeven : Obligations.ShiftLeftFlagsBitSeven := fun x y s =>
  answers_finishFlagged (p := fun v => v.toNat = (s.reg x).toNat * 2 % 256) (exec_shl s x y) (shiftLeft_value _)
    (shiftLeft_flag _)

namespace Sys2Proof.Safety

/-- Taking a random byte changes the count of bytes taken only (R226). -/
theorem unchangedBut_nextDraw (s : State) : UnchangedBut [.draws] s s.nextDraw := by
  simp [UnchangedBut, State.stackEntry, State.key]

end Sys2Proof.Safety

/-- Settles O30: the byte is taken, then the masked value finishes; for a given byte the bits are the conjunction's. -/
theorem randomIsMasked : Obligations.RandomIsMasked := by
  intro x kk s
  constructor
  · have frame : UnchangedBut [.regs, .pc, .draws] s (s.nextDraw.finish x (Config.rnd s.draws &&& kk)) :=
      ((unchangedBut_nextDraw s).append (unchangedBut_finish _ x _)).mono (by simp)
    refine ⟨_, exec_rnd s x kk, ?_, keepsRegs_finish s.nextDraw x _, rfl, rfl, frame⟩
    rw [State.finish_reg, if_pos rfl]
  · intro byte k _
    rw [State.withRandom, State.finish_reg, if_pos rfl, BitVec.getLsbD_and]

end

section
/-!
What DRW answers, pixel by pixel, and the obligations about it (R143, R144).
-/

open Sys2Proof Sys2Proof.Machine Sys2Proof.Safety

namespace Sys2Proof.Machine

/-- The state DRW answers when its sprite stays in memory (R144). -/
def State.drawn (s : State) (x y : RegIdx) (n : Count) : State :=
  ((s.setDisplay (s.drawing x y n).disp (s.dirty || (s.drawing x y n).changed)).setFlag
    (s.drawing x y n).collide).advance

variable {s : State} {x y : RegIdx} {n : Count}

theorem exec_drw (h : SpriteInMemory s n) : exec (.drw x y n) s = .next (s.drawn x y n) :=
  if_pos ((State.spriteOk_iff s n).2 h)

theorem exec_drw_refused (h : ¬ SpriteInMemory s n) : exec (.drw x y n) s = raiseIn .memRange (.drw x y n) s :=
  if_neg fun ok => h ((State.spriteOk_iff s n).1 ok)

/-- The drawing loop of DRW hits exactly the pixels `SpriteLands` speaks of. -/
theorem State.drawing_did :
    Drawing.Did { disp := s.disp, collide := false, changed := false } (s.drawing x y n)
      fun col row => SpriteLands s x y n col.val row.val := by
  refine (Drawing.plotRows_did _ _ _ _).congr fun col row => ?_
  simp only [SpriteLands, Memory.length_readBytes, Memory.getElem_readBytes, exists_prop]

theorem State.drawn_reg (r : RegIdx) :
    (s.drawn x y n).reg r = if r = 0xF then flagByte (s.drawing x y n).collide else s.reg r :=
  State.reg_setFlag ..

/-- A pixel after DRW: inverted where a set bit lands. -/
theorem State.drawn_pixel (col : Fin 64) (row : Fin 32) :
    (SpriteLands s x y n col.val row.val → (s.drawn x y n).disp.pixel col row = !s.disp.pixel col row) ∧
    (¬ SpriteLands s x y n col.val row.val → (s.drawn x y n).disp.pixel col row = s.disp.pixel col row) :=
  ⟨State.drawing_did.inverted col row, State.drawing_did.kept col row⟩

end Sys2Proof.Machine

namespace Sys2Proof.Safety

/-- DRW changes the display, dirty, register 0xF and PC only. -/
theorem unchangedBut_drawn (s : State) (x y : RegIdx) (n : Count) :
    UnchangedBut [.disp, .dirty, .regs, .pc] s (s.drawn x y n) :=
  ((unchangedBut_setDisplay s _ _).append (unchangedBut_setReg _ 0xF _)).advance

end Sys2Proof.Safety

/-- Settles O31: the drawing loop's effect (`State.drawing_did`) read off the answered state. -/
theorem drawSpriteXorsPixels : Obligations.DrawSpriteXorsPixels := by
  intro x y n s
  refine ⟨fun h => ⟨_, exec_drw h, State.drawn_pixel, fun hit => ?_, fun miss => ?_, ?_, fun r hr => ?_, rfl,
    unchangedBut_drawn s x y n⟩, fun h => errs_raiseIn (exec_drw_refused h) (packXYN_toNat 0xD x y n)⟩
  · have collides : (s.drawing x y n).collide = true := State.drawing_did.collide.2 (.inr hit)
    rw [State.drawn_reg, if_pos rfl, collides]
    rfl
  · have misses : (s.drawing x y n).collide = false := by
      rw [Bool.eq_false_iff, ne_eq, State.drawing_did.collide]
      rintro (h | ⟨col, row, lands, lit⟩)
      · cases h
      · exact Bool.false_ne_true ((miss col row lands).symm.trans lit)
    rw [State.drawn_reg, if_pos rfl, misses]
    rfl
  · have changed := (State.drawing_did (s := s) (x := x) (y := y) (n := n)).changed
    show (s.dirty || (s.drawing x y n).changed) = true ↔ _
    rw [Bool.or_eq_true, changed]
    simp
  · rw [State.drawn_reg, if_neg (List.ne_of_not_mem_cons hr)]

/-- Settles O32: with X and Y other than 0xF the second sprite lands where the first did, and inverting twice restores
a pixel. -/
theorem drawingTwiceRestoresDisplay : Obligations.DrawingTwiceRestoresDisplay := by
  intro x y n s hx hy h
  have hX : (s.drawn x y n).reg x = s.reg x := (State.drawn_reg x).trans (if_neg hx)
  have hY : (s.drawn x y n).reg y = s.reg y := (State.drawn_reg y).trans (if_neg hy)
  have lands (col row : Nat) : SpriteLands (s.drawn x y n) x y n col row ↔ SpriteLands s x y n col row := by
    rw [SpriteLands, SpriteLands, hX, hY]
    rfl
  refine ⟨_, exec_drw h, _, exec_drw h, Display.ext_pixel fun col row => ?_⟩
  obtain ⟨inverted, kept⟩ := State.drawn_pixel (s := s) (x := x) (y := y) (n := n) col row
  obtain ⟨inverted', kept'⟩ := State.drawn_pixel (s := s.drawn x y n) (x := x) (y := y) (n := n) col row
  rw [lands] at inverted' kept'
  by_cases hit : SpriteLands s x y n col.val row.val
  · rw [inverted' hit, inverted hit, Bool.not_not]
  · rw [kept' hit, kept hit]

end

section
/-!
What the key instructions answer, and the obligations about them (R160 to R165, R254).
-/

open Sys2Proof Sys2Proof.Machine Sys2Proof.Safety

namespace Sys2Proof.Machine

variable {s : State} {x : RegIdx}

theorem exec_skp {k : Key} (h : (s.reg x).toNat = k.val) : exec (.skp x) s = .next (s.skipIf (s.key k)) := by
  simp only [exec, execSkp, keyOf_eq_some.2 h]

theorem exec_skp_refused (h : 0xF < (s.reg x).toNat) : exec (.skp x) s = raiseIn .keyRange (.skp x) s := by
  simp only [exec, execSkp, keyOf_eq_none.2 h]

theorem exec_sknp {k : Key} (h : (s.reg x).toNat = k.val) : exec (.sknp x) s = .next (s.skipIf (!s.key k)) := by
  simp only [exec, execSknp, keyOf_eq_some.2 h]

theorem exec_sknp_refused (h : 0xF < (s.reg x).toNat) : exec (.sknp x) s = raiseIn .keyRange (.sknp x) s := by
  simp only [exec, execSknp, keyOf_eq_none.2 h]

theorem exec_ldVxK {k : Key} (h : s.leastKey = some k) :
    exec (.ldVxK x) s = .next (s.finish x (BitVec.ofNat 8 k.val)) := by
  simp only [exec, execLdVxK, h, State.finish]

theorem exec_ldVxK_waits (h : s.leastKey = none) : exec (.ldVxK x) s = .next s := by
  simp only [exec, execLdVxK, h]

/-- A step that changes nothing changes nothing however often it is taken. -/
theorem run_of_step_self (h : step s = .next s) (n : Nat) : core.run n s = .next s := by
  induction n with
  | zero => rfl
  | succ n ih => exact (run_succ h).trans ih

end Sys2Proof.Machine

/-- Settles O33: both are the skip of `answers_skipIf` on the named key, refused where no key is named. -/
theorem keySkipsTestTheKey : Obligations.KeySkipsTestTheKey := fun x _ =>
  ⟨fun _ hk => ⟨answers_skipIf (exec_skp hk) Iff.rfl,
      answers_skipIf (exec_sknp hk) (Iff.of_eq (Bool.not_eq_true' _))⟩,
    fun h => ⟨errs_raiseIn (exec_skp_refused h) (packXK_toNat 0xE x 0x9E),
      errs_raiseIn (exec_sknp_refused h) (packXK_toNat 0xE x 0xA1)⟩⟩

/-- Settles O35: by whether there is a least pressed key. -/
theorem awaitKeyTakesLeastOrWaits : Obligations.AwaitKeyTakesLeastOrWaits := by
  intro x s
  constructor
  · intro k pressed lower
    have least : s.leastKey = some k := (State.leastKey_eq_some s k).2 ⟨pressed, lower⟩
    refine answers_finish (p := fun v => v.toNat = k.val) (exec_ldVxK least) ?_
    rw [BitVec.toNat_ofNat]
    omega
  · intro none_pressed
    exact exec_ldVxK_waits ((State.leastKey_eq_none s).2 none_pressed)

/-- Settles O36: the step at the await-key answers the same state. -/
theorem awaitKeyWaitChangesNothing : Obligations.AwaitKeyWaitChangesNothing := by
  intro s w x hw hword none_pressed
  have hd : decode w = .instr (.ldVxK x) :=
    decode_of_encodes hword (encodes_of_toNat rfl (packXK_toNat 0xF x 0x0A))
  have waits : step s = .next s :=
    (stepRunsDecodedInstruction s w _ hw hd).trans ((awaitKeyTakesLeastOrWaits x s).2 none_pressed)
  exact run_of_step_self waits

end

section
/-!
What the index arithmetic and the memory blocks answer, and the obligations about them (R168 to R172).
-/

open Sys2Proof Sys2Proof.Machine Sys2Proof.Safety

namespace Sys2Proof.Machine

variable {s : State} {x : RegIdx}

theorem exec_addI : exec (.addI x) s =
    .next ((s.setIndex (indexAdd s.index (s.reg x)).value).setFlag (indexAdd s.index (s.reg x)).flag).advance := rfl

theorem exec_ldF : exec (.ldF x) s = .next (s.setIndex (glyphAddr (s.reg x))).advance := rfl

theorem exec_ldB (h : s.index.toNat + 2 ≤ 0xFFF) :
    exec (.ldB x) s = .next (s.setMem (s.mem.writeBytes s.index.toNat (bcd (s.reg x)))).advance :=
  if_pos ((State.reachOk_iff s 2).2 h)

theorem exec_ldB_refused (h : 0xFFF < s.index.toNat + 2) : exec (.ldB x) s = raiseIn .memRange (.ldB x) s :=
  if_neg fun ok => Nat.not_le.2 h ((State.reachOk_iff s 2).1 ok)

theorem exec_ldMemVx (h : s.index.toNat + x.val ≤ 0xFFF) :
    exec (.ldMemVx x) s = .next ((s.setMem (s.mem.writeBytes s.index.toNat (s.regBlock x))).setIndex
      (BitVec.ofNat 16 (s.indexed (x.val + 1)))).advance :=
  if_pos ((State.reachOk_iff s x.val).2 h)

theorem exec_ldMemVx_refused (h : 0xFFF < s.index.toNat + x.val) :
    exec (.ldMemVx x) s = raiseIn .memRange (.ldMemVx x) s :=
  if_neg fun ok => Nat.not_le.2 h ((State.reachOk_iff s x.val).1 ok)

theorem exec_ldVxMem (h : s.index.toNat + x.val ≤ 0xFFF) :
    exec (.ldVxMem x) s = .next ((s.loadRegs s.index.toNat x).setIndex
      (BitVec.ofNat 16 (s.indexed (x.val + 1)))).advance :=
  if_pos ((State.reachOk_iff s x.val).2 h)

theorem exec_ldVxMem_refused (h : 0xFFF < s.index.toNat + x.val) :
    exec (.ldVxMem x) s = raiseIn .memRange (.ldVxMem x) s :=
  if_neg fun ok => Nat.not_le.2 h ((State.reachOk_iff s x.val).1 ok)

/-- The I a block in memory leaves is the exact address after it: at most 0x1000, so nothing wraps. -/
theorem State.indexed_succ_toNat (h : s.index.toNat + x.val ≤ 0xFFF) :
    (BitVec.ofNat 16 (s.indexed (x.val + 1))).toNat = s.index.toNat + x.val + 1 := by
  rw [BitVec.toNat_ofNat, State.indexed]
  omega

theorem indexAdd_value (i : Word) (v : Byte) : (indexAdd i v).value.toNat = (i.toNat + v.toNat) % 2 ^ 16 :=
  BitVec.toNat_ofNat ..

theorem indexAdd_flag (i : Word) (v : Byte) :
    (flagByte (indexAdd i v).flag).toNat = if i.toNat + v.toNat > 0xFFF then 1 else 0 := by
  simp [flagByte_toNat, indexAdd]

/-- The digits of a byte fit in a byte each (R170). -/
theorem bcd_toNat (v : Byte) :
    ((bcd v)[0]).toNat = v.toNat / 100 ∧ ((bcd v)[1]).toNat = v.toNat / 10 % 10 ∧
      ((bcd v)[2]).toNat = v.toNat % 10 := by
  have := v.isLt
  simp only [bcd, List.getElem_cons_zero, List.getElem_cons_succ, BitVec.toNat_ofNat]
  omega

end Sys2Proof.Machine

namespace Sys2Proof.Safety

/-- Replacing memory changes memory only. -/
theorem unchangedBut_setMem (s : State) (m : Memory) : UnchangedBut [.mem] s (s.setMem m) := by
  simp [UnchangedBut, State.stackEntry, State.key]

/-- A block load changes the register file only. -/
theorem unchangedBut_loadRegs (s : State) (a : Nat) (x : RegIdx) : UnchangedBut [.regs] s (s.loadRegs a x) := by
  obtain ⟨v, h⟩ := State.loadRegs_eq s a x
  simp [h, UnchangedBut, State.stackEntry, State.key]

end Sys2Proof.Safety

/-- Settles O38: the flagged result of `indexAdd`, with its value to I. -/
theorem addToIndexFlagsOverflow : Obligations.AddToIndexFlagsOverflow := by
  intro x s
  have frame := (unchangedBut_setIndex s (indexAdd s.index (s.reg x)).value).append
    (unchangedBut_setReg _ 0xF (flagByte (indexAdd s.index (s.reg x)).flag))
  refine ⟨_, exec_addI, indexAdd_value _ _, ?_, fun r hr => ?_, rfl, frame.advance⟩
  · rw [State.reg_advance, State.reg_setFlag, if_pos rfl, indexAdd_flag]
  · rw [State.reg_advance, State.reg_setFlag, if_neg (List.ne_of_not_mem_cons hr), State.reg_setIndex]

/-- Settles O39: I receives the glyph's address. -/
theorem fontAddressFromLowNibble : Obligations.FontAddressFromLowNibble := fun x s =>
  ⟨_, exec_ldF, glyphAddr_toNat (s.reg x), rfl, unchangedBut_setIndex_advance s (glyphAddr (s.reg x))⟩

/-- Settles O40: a read in the block written gives the digit, a read outside it the old byte. -/
theorem storeBcdDigits : Obligations.StoreBcdDigits := by
  intro x s
  refine ⟨fun h => ?_, fun h => errs_raiseIn (exec_ldB_refused h) (packXK_toNat 0xF x 0x33)⟩
  have digit (k : Nat) (hk : k < (bcd (s.reg x)).length) :
      (s.mem.writeBytes s.index.toNat (bcd (s.reg x))).read (s.index.toNat + k) = (bcd (s.reg x))[k] :=
    Memory.read_writeBytes_at hk
  obtain ⟨hundreds, tens, units⟩ := bcd_toNat (s.reg x)
  refine ⟨_, exec_ldB h, ?_, ?_, ?_, fun a ha => ?_, rfl, (unchangedBut_setMem s _).advance⟩
  · exact (congrArg BitVec.toNat (digit 0 (by simp))).trans hundreds
  · exact (congrArg BitVec.toNat (digit 1 (by simp))).trans tens
  · exact (congrArg BitVec.toNat (digit 2 (by simp))).trans units
  · refine Memory.read_writeBytes_outside ?_
    rw [length_bcd]
    omega

/-- Settles O41: a read in the block written gives the register, a read outside it the old byte. -/
theorem storeRegisterBlock : Obligations.StoreRegisterBlock := by
  intro x s
  refine ⟨fun h => ?_, fun h => errs_raiseIn (exec_ldMemVx_refused h) (packXK_toNat 0xF x 0x55)⟩
  refine ⟨_, exec_ldMemVx h, fun k hk => ?_, fun a ha => ?_, State.indexed_succ_toNat h, rfl,
    ((unchangedBut_setMem s _).append (unchangedBut_setIndex _ _)).advance⟩
  · have hlen : k.val < (s.regBlock x).length := by
      rw [State.length_regBlock]
      omega
    exact (Memory.read_writeBytes_at hlen).trans (State.getElem_regBlock s x k hk hlen)
  · refine Memory.read_writeBytes_outside ?_
    rw [State.length_regBlock]
    omega

/-- Settles O42: `State.loadRegs_reg` gives every register after the load. -/
theorem loadRegisterBlock : Obligations.LoadRegisterBlock := by
  intro x s
  refine ⟨fun h => ?_, fun h => errs_raiseIn (exec_ldVxMem_refused h) (packXK_toNat 0xF x 0x65)⟩
  refine ⟨_, exec_ldVxMem h, fun k hk => ?_, fun k hk => ?_, State.indexed_succ_toNat h, ?_,
    ((unchangedBut_loadRegs s _ x).append (unchangedBut_setIndex _ _)).advance⟩
  · exact (State.loadRegs_reg s _ x k).trans (if_pos hk)
  · exact (State.loadRegs_reg s _ x k).trans (if_neg (Nat.not_le.2 hk))
  · obtain ⟨v, loaded⟩ := State.loadRegs_eq s s.index.toNat x
    simp [loaded]

/-- Settles O43: the load reads back what `storeRegisterBlock` says the memory holds. -/
theorem storedBlockLoadsBack : Obligations.StoredBlockLoadsBack := by
  intro x s h
  obtain ⟨t, ht, stored, -, tIndex, -, -⟩ := (storeRegisterBlock x s).1 h
  refine ⟨t, ht, fun p hmem hindex => ?_⟩
  obtain ⟨u, hu, loaded, -, uIndex, -, -⟩ := (loadRegisterBlock x p).1 (hindex ▸ h)
  rw [hindex] at loaded uIndex
  refine ⟨u, hu, fun k hk => ?_, BitVec.eq_of_toNat_eq (uIndex.trans tIndex.symm)⟩
  rw [loaded k hk, hmem, stored k hk]

end

section
/-!
The timers, load and reset, and the obligations about them (R209, R230, R231, R240, R242).
-/

open Sys2Proof Sys2Proof.Machine Sys2Proof.Safety

namespace Sys2Proof.Machine

variable {s : State}

theorem tickTimers_dt_toNat : (tickTimers s).dt.toNat = s.dt.toNat - 1 := by
  rw [tickTimers_eq, countDown_toNat]

theorem tickTimers_st_toNat : (tickTimers s).st.toNat = s.st.toNat - 1 := by
  rw [tickTimers_eq, countDown_toNat]

theorem tickTimers_events :
    (tickTimers s).events = if s.st.toNat = 1 then .tone :: s.events else s.events := by
  rw [tickTimers_eq]

theorem transact_tickTimers : transact .tickTimers (some s) = .next (tickTimers s, .silent) := rfl

theorem transact_load {p : List Byte} (h : p.length ≤ Config.progMax) :
    transact (.load p) (some s) = .next (s.setMem (s.mem.writeBytes Config.progBase p), .loaded .ok) := by
  simp only [transact, transactOn, load, if_pos h]

theorem transact_load_tooLarge {p : List Byte} (h : Config.progMax < p.length) :
    transact (.load p) (some s) = .next (s, .loaded .tooLarge) := by
  simp only [transact, transactOn, load, if_neg (Nat.not_le.2 h)]

/-- A reset, at any time, gives the reset state up to the model's own two fields (R240, log entries 1 and 2). -/
theorem transact_reset (m : Option State) : ∃ es n,
    transact .reset m = .next ({ State.reset with events := es, draws := n }, .silent) := by
  cases m with
  | none => exact ⟨[], 0, rfl⟩
  | some s => exact ⟨s.events, s.draws, rfl⟩

theorem transact_none {t : Transaction} (h : t ≠ .reset) : transact t none = .refused .beforeReset := by
  cases t with
  | reset => exact absurd rfl h
  | load | step | tickTimers | setKey | ackFrame | observe => rfl

end Sys2Proof.Machine

namespace Sys2Proof.Safety

/-- A tick changes the timers and the trace only. -/
theorem unchangedBut_tickTimers (s : State) : UnchangedBut [.dt, .st, .events] s (tickTimers s) := by
  rw [tickTimers_eq]
  simp [UnchangedBut, State.reg, State.stackEntry, State.key]

end Sys2Proof.Safety

/-- Settles O44: a tick counts both timers down and outputs the tone when ST was 1. -/
theorem tickCountsDownAndSignalsTone : Obligations.TickCountsDownAndSignalsTone := by
  intro s
  refine ⟨transact_tickTimers, ?_, ?_, tickTimers_events, unchangedBut_tickTimers s⟩
  · rw [tickTimers_dt_toNat]
    split <;> omega
  · rw [tickTimers_st_toNat]
    split <;> omega

/-- Settles O45: by induction on the number of ticks; the first tick outputs the tone if ST is 1, and otherwise leaves
it to the others. -/
theorem ticksDrainTimersWithOneTone : Obligations.TicksDrainTimersWithOneTone := by
  intro n
  induction n with
  | zero =>
    intro s
    refine ⟨rfl, rfl, (if_neg ?_).symm⟩
    omega
  | succ n ih =>
    intro s
    obtain ⟨hdt, hst, hevents⟩ := ih (tickTimers s)
    rw [tickTimers_dt_toNat] at hdt
    rw [tickTimers_st_toNat] at hst hevents
    rw [Function.iterate_succ_apply, hdt, hst, hevents, tickTimers_events]
    refine ⟨by omega, by omega, ?_⟩
    by_cases last : s.st.toNat = 1
    · rw [if_pos last, if_neg (by omega), if_pos (by omega)]
    · rw [if_neg last]
      exact if_congr (by omega) rfl rfl

/-- Settles O47: a program that fits is one block of writes from 0x200; a longer one leaves the state. -/
theorem loadWritesExactlyTheProgram : Obligations.LoadWritesExactlyTheProgram := fun _ s =>
  ⟨fun h => ⟨_, transact_load h, fun _ hj => Memory.read_writeBytes_at hj,
      fun _ ha => Memory.read_writeBytes_outside ha, unchangedBut_setMem s _⟩,
    fun h => transact_load_tooLarge h⟩

/-- Settles O48: every item but memory is a constant of `State.reset`, and memory reads as its reset contents. -/
theorem resetLeavesTheTable : Obligations.ResetLeavesTheTable := by
  intro m
  obtain ⟨es, n, h⟩ := transact_reset m
  refine ⟨_, h, fun r => ?_, rfl, rfl, rfl, fun k => ?_, rfl, rfl, Display.pixel_blank, rfl, fun k => ?_, rfl,
    fun a _ => Memory.resetByte_eq a⟩
  · exact Vector.getElem_replicate ..
  · exact Vector.getElem_replicate ..
  · exact Vector.getElem_replicate ..

end

section
/-!
What an instruction can do, said once for all 35: it completes, writing no part but those it names and moving control
in one of four ways, or it raises an error.
-/

namespace Sys2Proof.Machine

open Sys2Proof Sys2Proof.Safety

/-- The parts an instruction may write when it completes (R24, R26, R28 to R32, R52). -/
def writes : Instr → List Part
  | .sys _ => []
  | .cls => [.disp, .dirty, .pc]
  | .ret => [.sp, .pc]
  | .call _ => [.stack, .sp, .pc]
  | .jp _ | .jpV0 _ | .seImm _ _ | .sneImm _ _ | .seReg _ _ | .sneReg _ _ | .skp _ | .sknp _ => [.pc]
  | .ldImm _ _ | .addImm _ _ | .ldReg _ _ | .orReg _ _ | .andReg _ _ | .xorReg _ _ => [.regs, .pc]
  | .addReg _ _ | .subReg _ _ | .subnReg _ _ | .shr _ _ | .shl _ _ => [.regs, .pc]
  | .ldI _ | .ldF _ => [.index, .pc]
  | .rnd _ _ => [.draws, .regs, .pc]
  | .drw _ _ _ => [.disp, .dirty, .regs, .pc]
  | .ldVxDt _ | .ldVxK _ => [.regs, .pc]
  | .ldDtVx _ => [.dt, .pc]
  | .ldStVx _ => [.st, .pc]
  | .addI _ => [.index, .regs, .pc]
  | .ldB _ => [.mem, .pc]
  | .ldMemVx _ => [.mem, .index, .pc]
  | .ldVxMem _ => [.regs, .index, .pc]

/-- No completed instruction records an error, outputs anything or changes a key. -/
theorem not_mem_writes (i : Instr) : Part.err ∉ writes i ∧ Part.events ∉ writes i ∧ Part.keys ∉ writes i := by
  cases i <;> simp [writes]

/-! The instructions that may write a part, read off the table of `writes`. -/

theorem mem_mem_writes {i : Instr} (h : Part.mem ∈ writes i) : ∃ x, i = .ldB x ∨ i = .ldMemVx x := by
  cases i <;> simp [writes] at h ⊢

theorem stack_mem_writes {i : Instr} (h : Part.stack ∈ writes i) : ∃ nnn, i = .call nnn := by
  cases i <;> simp [writes] at h ⊢

theorem display_mem_writes {i : Instr} (h : Part.disp ∈ writes i ∨ Part.dirty ∈ writes i) :
    i = .cls ∨ ∃ x y n, i = .drw x y n := by
  cases i <;> simp [writes] at h ⊢

theorem dt_mem_writes {i : Instr} (h : Part.dt ∈ writes i) : ∃ x, i = .ldDtVx x := by
  cases i <;> simp [writes] at h ⊢

theorem st_mem_writes {i : Instr} (h : Part.st ∈ writes i) : ∃ x, i = .ldStVx x := by
  cases i <;> simp [writes] at h ⊢

theorem index_mem_writes {i : Instr} (h : Part.index ∈ writes i) :
    (∃ nnn, i = .ldI nnn) ∨ ∃ x, i = .addI x ∨ i = .ldF x ∨ i = .ldMemVx x ∨ i = .ldVxMem x := by
  cases i <;> simp [writes] at h ⊢

/-- How a completed instruction moves PC and the call stack (R23, R27, R205). -/
inductive ControlMoves (s t : State) : Prop where
  /-- On to the next instruction, past the next one, or not at all while a key is awaited. -/
  | on (hsp : t.sp = s.sp) (hstack : t.stack = s.stack) (hpc : t.pc = s.pc ∨ t.pc = s.pc + 2 ∨ t.pc = s.pc + 4)
  /-- To a legal target. -/
  | jump (hsp : t.sp = s.sp) (hstack : t.stack = s.stack) (hpc : 0x200 ≤ t.pc.toNat ∧ t.pc.toNat ≤ 0xFFF)
  /-- To a legal target, with PC pushed. -/
  | call (k : Fin 16) (hk : s.sp.val = k.val) (hsp : t.sp.val = k.val + 1) (htop : t.stackEntry k = s.pc)
      (hbelow : ∀ j, j ≠ k → t.stackEntry j = s.stackEntry j)
      (hpc : 0x200 ≤ t.pc.toNat ∧ t.pc.toNat ≤ 0xFFF)
  /-- To 2 after the popped entry. -/
  | ret (k : Fin 16) (hk : s.sp.val = k.val + 1) (hsp : t.sp.val = k.val) (hstack : t.stack = s.stack)
      (hpc : t.pc = s.stackEntry k + 2)

/-- The instruction `i` completed, from `s` to `t`. -/
structure Completes (i : Instr) (s t : State) : Prop where
  frame : UnchangedBut (writes i) s t
  memory : s.mem.wf → t.mem.wf
  control : ControlMoves s t

/-- PC + 2, with memory and the call stack as before: how every instruction without a control transfer completes. -/
theorem Completes.advance {i : Instr} {s t : State} (frame : UnchangedBut (writes i) s t) (hmem : t.mem = s.mem)
    (hsp : t.sp = s.sp) (hstack : t.stack = s.stack) (hpc : t.pc = s.pc + 2) : Completes i s t :=
  ⟨frame, fun wf => hmem ▸ wf, .on hsp hstack (.inr (.inl hpc))⟩

theorem Completes.skip {i : Instr} {s : State} (c : Bool) (h : writes i = [.pc]) : Completes i s (s.skipIf c) := by
  refine ⟨h ▸ unchangedBut_skipIf s c, id, .on rfl rfl (.inr ?_)⟩
  rw [State.skipIf_pc]
  split
  · exact .inr rfl
  · exact .inl rfl

theorem Completes.jump {i : Instr} {s : State} {v : Word} (h : writes i = [.pc])
    (hv : 0x200 ≤ v.toNat ∧ v.toNat ≤ 0xFFF) : Completes i s (s.setPc v) :=
  ⟨h ▸ unchangedBut_setPc s v, id, .jump rfl rfl hv⟩

/-- A block written from I that stays in the space of R50 keeps memory's canonical form. -/
theorem Completes.store {i : Instr} {s t : State} {vs : List Byte} (frame : UnchangedBut (writes i) s t)
    (hmem : t.mem = s.mem.writeBytes s.index.toNat vs) (hlen : s.index.toNat + vs.length ≤ Config.memSize)
    (hsp : t.sp = s.sp) (hstack : t.stack = s.stack) (hpc : t.pc = s.pc + 2) : Completes i s t :=
  ⟨frame, fun wf => hmem ▸ Memory.writeBytes_wf hlen wf, .on hsp hstack (.inr (.inl hpc))⟩

/-- The instruction `i` at `s` completes or is an error of its own. -/
def CompletesOrRaises (i : Instr) (s : State) : Prop :=
  (∃ t, exec i s = .next t ∧ Completes i s t) ∨ ∃ c, exec i s = raiseIn c i s

variable (s : State)

theorem completesOrRaises_ret : CompletesOrRaises .ret s := by
  obtain hsp | ⟨k, hk⟩ : s.sp.val = 0 ∨ ∃ k : Fin 16, s.sp.val = k.val + 1 := by
    rcases Nat.eq_zero_or_pos s.sp.val with h | h
    · exact .inl h
    · exact .inr ⟨⟨s.sp.val - 1, by omega⟩, by simp only; omega⟩
  · exact .inr ⟨_, exec_ret_underflow hsp⟩
  · have hpos : 0 < s.sp.val := by omega
    refine .inl ⟨_, exec_ret hpos, (unchangedBut_pop s).append (unchangedBut_setPc _ _), id,
      .ret k hk ?_ rfl ?_⟩
    · simp [hk]
    · rw [State.setPc_pc, State.top_eq s hpos k hk]

theorem completesOrRaises_jp (nnn : Addr) : CompletesOrRaises (.jp nnn) s := by
  rcases Nat.lt_or_ge nnn.toNat 0x200 with h | h
  · exact .inr ⟨_, exec_jp_refused h⟩
  · refine .inl ⟨_, exec_jp h, .jump rfl ?_⟩
    rw [zextAddr_toNat]
    omega

theorem completesOrRaises_call (nnn : Addr) : CompletesOrRaises (.call nnn) s := by
  rcases Nat.lt_or_ge s.sp.val 16 with hsp | hsp
  · rcases Nat.lt_or_ge nnn.toNat 0x200 with h | h
    · exact .inr ⟨_, exec_call_refused hsp h⟩
    · obtain ⟨t, ht, htop, hbelow, hsp', hpc, frame⟩ := (callPushesItsAddress nnn s).1 ⟨s.sp.val, hsp⟩ rfl h
      have hmem : t.mem = s.mem := by
        cases (exec_call hsp h).symm.trans ht
        rfl
      refine .inl ⟨t, ht, frame, fun wf => hmem ▸ wf, .call _ rfl hsp' htop hbelow ?_⟩
      omega
  · exact .inr ⟨_, exec_call_overflow (by omega)⟩

theorem completesOrRaises_jpV0 (nnn : Addr) : CompletesOrRaises (.jpV0 nnn) s := by
  by_cases h : targetOk (s.offsetTarget nnn) = true
  · obtain ⟨hlo, hhi⟩ := (targetOk_iff _).1 h
    refine .inl ⟨_, exec_jpV0 h, .jump rfl ?_⟩
    rw [BitVec.toNat_ofNat]
    omega
  · exact .inr ⟨_, exec_jpV0_refused h⟩

theorem completesOrRaises_drw (x y : RegIdx) (n : Count) : CompletesOrRaises (.drw x y n) s := by
  by_cases h : SpriteInMemory s n
  · exact .inl ⟨_, exec_drw h, .advance (unchangedBut_drawn s x y n) rfl rfl rfl rfl⟩
  · exact .inr ⟨_, exec_drw_refused h⟩

theorem completesOrRaises_skp (x : RegIdx) : CompletesOrRaises (.skp x) s := by
  rcases Nat.lt_or_ge 0xF (s.reg x).toNat with h | h
  · exact .inr ⟨_, exec_skp_refused h⟩
  · exact .inl ⟨_, exec_skp (k := ⟨(s.reg x).toNat, by omega⟩) rfl, .skip _ rfl⟩

theorem completesOrRaises_sknp (x : RegIdx) : CompletesOrRaises (.sknp x) s := by
  rcases Nat.lt_or_ge 0xF (s.reg x).toNat with h | h
  · exact .inr ⟨_, exec_sknp_refused h⟩
  · exact .inl ⟨_, exec_sknp (k := ⟨(s.reg x).toNat, by omega⟩) rfl, .skip _ rfl⟩

theorem completesOrRaises_ldVxK (x : RegIdx) : CompletesOrRaises (.ldVxK x) s := by
  cases h : s.leastKey with
  | none => exact .inl ⟨s, exec_ldVxK_waits h, UnchangedBut.refl _ s, id, .on rfl rfl (.inl rfl)⟩
  | some k => exact .inl ⟨_, exec_ldVxK h, .advance (unchangedBut_finish s x _) rfl rfl rfl rfl⟩

theorem completesOrRaises_ldB (x : RegIdx) : CompletesOrRaises (.ldB x) s := by
  rcases Nat.lt_or_ge 0xFFF (s.index.toNat + 2) with h | h
  · exact .inr ⟨_, exec_ldB_refused h⟩
  · refine .inl ⟨_, exec_ldB h, .store (unchangedBut_setMem s _).advance rfl ?_ rfl rfl rfl⟩
    rw [length_bcd, Config.memSize]
    omega

theorem completesOrRaises_ldMemVx (x : RegIdx) : CompletesOrRaises (.ldMemVx x) s := by
  rcases Nat.lt_or_ge 0xFFF (s.index.toNat + x.val) with h | h
  · exact .inr ⟨_, exec_ldMemVx_refused h⟩
  · refine .inl ⟨_, exec_ldMemVx h,
      .store ((unchangedBut_setMem s _).append (unchangedBut_setIndex _ _)).advance rfl ?_ rfl rfl rfl⟩
    rw [State.length_regBlock, Config.memSize]
    omega

theorem completesOrRaises_ldVxMem (x : RegIdx) : CompletesOrRaises (.ldVxMem x) s := by
  rcases Nat.lt_or_ge 0xFFF (s.index.toNat + x.val) with h | h
  · exact .inr ⟨_, exec_ldVxMem_refused h⟩
  · obtain ⟨v, loaded⟩ := State.loadRegs_eq s s.index.toNat x
    refine .inl ⟨_, exec_ldVxMem h,
      .advance ((unchangedBut_loadRegs s _ x).append (unchangedBut_setIndex _ _)).advance ?_ ?_ ?_ ?_⟩ <;>
    simp [loaded]

/-- Every instruction, at every state, completes or raises: the one case split over the 35. -/
theorem exec_cases (i : Instr) : CompletesOrRaises i s := by
  cases i with
  | sys nnn => exact .inr ⟨_, exec_sys nnn s⟩
  | cls => exact .inl ⟨_, exec_cls s, .advance (unchangedBut_setDisplay s _ _).advance rfl rfl rfl rfl⟩
  | ret => exact completesOrRaises_ret s
  | jp nnn => exact completesOrRaises_jp s nnn
  | call nnn => exact completesOrRaises_call s nnn
  | seImm x kk => exact .inl ⟨_, exec_seImm s x kk, .skip _ rfl⟩
  | sneImm x kk => exact .inl ⟨_, exec_sneImm s x kk, .skip _ rfl⟩
  | seReg x y => exact .inl ⟨_, exec_seReg s x y, .skip _ rfl⟩
  | sneReg x y => exact .inl ⟨_, exec_sneReg s x y, .skip _ rfl⟩
  | ldImm x kk => exact .inl ⟨_, exec_ldImm s x kk, .advance (unchangedBut_finish s x _) rfl rfl rfl rfl⟩
  | addImm x kk => exact .inl ⟨_, exec_addImm s x kk, .advance (unchangedBut_finish s x _) rfl rfl rfl rfl⟩
  | ldReg x y => exact .inl ⟨_, exec_ldReg s x y, .advance (unchangedBut_finish s x _) rfl rfl rfl rfl⟩
  | orReg x y => exact .inl ⟨_, exec_orReg s x y, .advance (unchangedBut_finish s x _) rfl rfl rfl rfl⟩
  | andReg x y => exact .inl ⟨_, exec_andReg s x y, .advance (unchangedBut_finish s x _) rfl rfl rfl rfl⟩
  | xorReg x y => exact .inl ⟨_, exec_xorReg s x y, .advance (unchangedBut_finish s x _) rfl rfl rfl rfl⟩
  | addReg x y => exact .inl ⟨_, exec_addReg s x y, .advance (unchangedBut_finishFlagged s x _) rfl rfl rfl rfl⟩
  | subReg x y => exact .inl ⟨_, exec_subReg s x y, .advance (unchangedBut_finishFlagged s x _) rfl rfl rfl rfl⟩
  | subnReg x y => exact .inl ⟨_, exec_subnReg s x y, .advance (unchangedBut_finishFlagged s x _) rfl rfl rfl rfl⟩
  | shr x y => exact .inl ⟨_, exec_shr s x y, .advance (unchangedBut_finishFlagged s x _) rfl rfl rfl rfl⟩
  | shl x y => exact .inl ⟨_, exec_shl s x y, .advance (unchangedBut_finishFlagged s x _) rfl rfl rfl rfl⟩
  | ldI nnn => exact .inl ⟨_, exec_ldI s nnn, .advance (unchangedBut_setIndex_advance s _) rfl rfl rfl rfl⟩
  | jpV0 nnn => exact completesOrRaises_jpV0 s nnn
  | rnd x kk =>
    exact .inl ⟨_, exec_rnd s x kk,
      .advance ((unchangedBut_nextDraw s).append (unchangedBut_finish _ x _)) rfl rfl rfl rfl⟩
  | drw x y n => exact completesOrRaises_drw s x y n
  | skp x => exact completesOrRaises_skp s x
  | sknp x => exact completesOrRaises_sknp s x
  | ldVxDt x => exact .inl ⟨_, exec_ldVxDt s x, .advance (unchangedBut_finish s x _) rfl rfl rfl rfl⟩
  | ldVxK x => exact completesOrRaises_ldVxK s x
  | ldDtVx x => exact .inl ⟨_, exec_ldDtVx s x, .advance (unchangedBut_setDt s _).advance rfl rfl rfl rfl⟩
  | ldStVx x => exact .inl ⟨_, exec_ldStVx s x, .advance (unchangedBut_setSt s _).advance rfl rfl rfl rfl⟩
  | addI x =>
    exact .inl ⟨_, exec_addI,
      .advance ((unchangedBut_setIndex s _).append (unchangedBut_setReg _ 0xF _)).advance rfl rfl rfl rfl⟩
  | ldF x => exact .inl ⟨_, exec_ldF, .advance (unchangedBut_setIndex_advance s _) rfl rfl rfl rfl⟩
  | ldB x => exact completesOrRaises_ldB s x
  | ldMemVx x => exact completesOrRaises_ldMemVx s x
  | ldVxMem x => exact completesOrRaises_ldVxMem s x

/-- What a step can do: an instruction completes after a legal fetch, or one error action is taken, which is
FETCH_RANGE or follows a legal fetch. -/
theorem step_completes_or_raises :
    (∃ i t, step s = .next t ∧ Completes i s t ∧ s.pc.toNat ≤ 0xFFE) ∨
    ∃ c w, step s = .next (raise c w s) ∧ (c = .fetchRange ∨ s.pc.toNat ≤ 0xFFE) := by
  have fetched {w : Word} (hf : s.fetch = some w) : s.pc.toNat ≤ 0xFFE := ((State.fetch_eq_some s w).1 hf).1.2
  rcases step_cases s with ⟨-, h⟩ | ⟨w, hf, -, h⟩ | ⟨w, i, hf, -, h⟩
  · exact .inr ⟨_, _, h, .inl rfl⟩
  · exact .inr ⟨_, _, h, .inr (fetched hf)⟩
  · rcases exec_cases s i with ⟨t, ht, done⟩ | ⟨c, hc⟩
    · exact .inl ⟨i, t, h.trans ht, done, fetched hf⟩
    · exact .inr ⟨c, _, h.trans hc, .inr (fetched hf)⟩

/-- A completed instruction outputs nothing and leaves `ERR`. -/
theorem Completes.silent {i : Instr} {s t : State} (h : Completes i s t) : t.events = s.events ∧ t.err = s.err := by
  obtain ⟨noErr, noEvents, -⟩ := not_mem_writes i
  obtain ⟨-, -, -, -, -, -, -, -, -, -, -, err, events, -⟩ := h.frame
  exact ⟨events noEvents, err noErr⟩

end Sys2Proof.Machine
end

section
/-!
The obligations about errors over a step and over a run, and about who writes what (R35, R52, R201, R227).
-/

open Sys2Proof Sys2Proof.Machine Sys2Proof.Safety

/-- Settles O10: a completed instruction is silent, and otherwise the step is one error action. -/
theorem stepCompletesOrTakesOneError : Obligations.StepCompletesOrTakesOneError := by
  intro s
  rcases step_completes_or_raises s with ⟨i, t, h, done, -⟩ | ⟨c, w, h, -⟩
  · exact ⟨t, h, .inl done.silent⟩
  · exact ⟨_, h, .inr ⟨c, w, errorTaken_raise s c w⟩⟩

/-- Settles O54: an error adds its cause's bit to `ERR`, and no cause has bit 7; a completed instruction keeps `ERR`. -/
theorem errBitsAreSticky : Obligations.ErrBitsAreSticky := by
  intro s t h
  rcases step_completes_or_raises s with ⟨i, t', h', done, -⟩ | ⟨c, w, h', -⟩ <;> cases h.symm.trans h'
  · obtain ⟨-, herr⟩ := done.silent
    rw [herr]
    exact ⟨fun _ _ hset => hset, rfl⟩
  · refine ⟨fun k hk hset => ?_, raise_err_bit7 s c w⟩
    rw [raise_err_getLsbD s c w hk, hset, Bool.true_or]

/-- Settles O55: by induction on the number of steps; an error in the first would leave `ERR` nonzero after it. -/
theorem cleanErrMeansNoErrorReported : Obligations.CleanErrMeansNoErrorReported := by
  intro n
  induction n with
  | zero =>
    intro s t h clean
    cases h
    exact ⟨clean, rfl⟩
  | succ n ih =>
    intro s t h clean
    rcases step_completes_or_raises s with ⟨i, u, hu, done, -⟩ | ⟨c, w, hu, -⟩ <;>
      obtain ⟨cleanU, eventsU⟩ := ih _ t ((run_succ hu).symm.trans h) clean
    · obtain ⟨hevents, herr⟩ := done.silent
      exact ⟨herr.symm.trans cleanU, eventsU.trans hevents⟩
    · exact absurd cleanU (raise_err_ne_zero s c w)

/-- Settles O56: a completed instruction writes no part but those of `writes`, an error only `ERR`, the trace and PC;
so one frame holds of both, and each clause asks which instructions name the part. -/
theorem onlyNamedInstructionsWrite : Obligations.OnlyNamedInstructionsWrite := by
  intro i s t h
  have frame : UnchangedBut (writes i ++ [.err, .events, .pc]) s t := by
    rcases exec_cases s i with ⟨t', h', done⟩ | ⟨c, h'⟩ <;> cases h.symm.trans h'
    · exact done.frame.mono (List.subset_append_left _ _)
    · exact (unchangedBut_raise s c _).mono (List.subset_append_right _ _)
  have kept {p : Part} (hi : p ∉ writes i) (hp : p ∉ [Part.err, .events, .pc]) :
      p ∉ writes i ++ [.err, .events, .pc] := by
    rw [List.mem_append]
    exact fun h => h.elim hi hp
  obtain ⟨-, -, noKeys⟩ := not_mem_writes i
  obtain ⟨-, index, -, -, stack, dt, st, disp, dirty, keys, mem, -, -, -⟩ := frame
  refine ⟨keys (kept noKeys (by simp)), fun hi => mem (kept (fun hp => ?_) (by simp)),
    fun hi => stack (kept (fun hp => ?_) (by simp)), fun hi => ?_, fun hi => dt (kept (fun hp => ?_) (by simp)),
    fun hi => st (kept (fun hp => ?_) (by simp)), fun hi hi' => index (kept (fun hp => ?_) (by simp))⟩
  · obtain ⟨x, rfl | rfl⟩ := mem_mem_writes hp
    · exact (hi x).1 rfl
    · exact (hi x).2 rfl
  · obtain ⟨nnn, rfl⟩ := stack_mem_writes hp
    exact hi nnn rfl
  · have noDisplay : ¬ (Part.disp ∈ writes i ∨ Part.dirty ∈ writes i) := fun hp =>
      (display_mem_writes hp).elim hi.1 fun ⟨x, y, n, h⟩ => hi.2 x y n h
    exact ⟨disp (kept (fun hp => noDisplay (.inl hp)) (by simp)),
      dirty (kept (fun hp => noDisplay (.inr hp)) (by simp))⟩
  · obtain ⟨x, rfl⟩ := dt_mem_writes hp
    exact hi x rfl
  · obtain ⟨x, rfl⟩ := st_mem_writes hp
    exact hi x rfl
  · rcases index_mem_writes hp with ⟨nnn, h⟩ | ⟨x, h⟩
    · exact hi nnn h
    · obtain ⟨notAddI, notLdF, notStore, notLoad⟩ := hi' x
      exact h.elim notAddI fun h => h.elim notLdF fun h => h.elim notStore notLoad

end

section
/-!
The invariant of the machine, and the obligations about it (R22, R23, R35, R74, R104, R224, R229).
-/

open Sys2Proof Sys2Proof.Machine Sys2Proof.Safety

namespace Sys2Proof.Safety

variable {s t : State}

/-- The invariant speaks of memory, PC, `ERR`, SP and the stack only. -/
theorem GoodState.of_eq (hs : GoodState s) (hmem : t.mem.wf) (hpc : t.pc = s.pc) (herr : t.err = s.err)
    (hsp : t.sp = s.sp) (hstack : t.stack = s.stack) : GoodState t := by
  obtain ⟨-, pc, err, stack⟩ := hs
  refine ⟨hmem, hpc ▸ pc, herr ▸ err, fun k hk => ?_⟩
  rw [State.stackEntry, hstack]
  exact stack k (hsp ▸ hk)

/-- An error keeps the invariant: PC is kept, or advanced after a legal fetch, and no cause has bit 7 of `ERR`. -/
theorem goodState_raise (hs : GoodState s) {c : Cause} (w : Option Word)
    (hc : c = .fetchRange ∨ s.pc.toNat ≤ 0xFFE) : GoodState (raise c w s) := by
  obtain ⟨mem, pc, err, stack⟩ := hs
  refine ⟨?_, ?_, ?_, fun k hk => ?_⟩
  · rwa [raise_mem]
  · rw [raise_pc]
    split
    · exact pc
    · have hpc : s.pc.toNat ≤ 0xFFE := hc.resolve_left ‹_›
      bv_omega
  · exact (raise_err_bit7 s c w).trans err
  · rw [State.stackEntry, raise_stack]
    exact stack k (by rwa [raise_sp] at hk)

/-- A completed instruction keeps the stack's part of the invariant: a pushed PC was fetched from, and the other
active entries were active before. -/
theorem goodStack_of_controlMoves (h : ControlMoves s t) (hs : GoodState s) (hfetched : s.pc.toNat ≤ 0xFFE) :
    ∀ k : Fin 16, k.val < t.sp.val → 0x200 ≤ (t.stackEntry k).toNat ∧ (t.stackEntry k).toNat ≤ 0xFFE := by
  obtain ⟨-, pc, -, stack⟩ := hs
  intro k hk
  cases h with
  | on hsp hstack _ | jump hsp hstack _ =>
    rw [State.stackEntry, hstack]
    exact stack k (hsp ▸ hk)
  | call j hj hsp htop hbelow _ =>
    by_cases h : k = j
    · rw [h, htop]
      exact ⟨pc.1, hfetched⟩
    · rw [hbelow k h]
      have : k.val ≠ j.val := fun e => h (Fin.ext e)
      exact stack k (by omega)
  | ret j hj hsp hstack _ =>
    rw [State.stackEntry, hstack]
    exact stack k (by omega)

/-- A completed instruction keeps PC's part of the invariant: at most 4 past a legal fetch, a legal target, or 2 past
an active entry. -/
theorem goodPc_of_controlMoves (h : ControlMoves s t) (hs : GoodState s) (hfetched : s.pc.toNat ≤ 0xFFE) :
    0x200 ≤ t.pc.toNat ∧ t.pc.toNat ≤ 0x1002 := by
  obtain ⟨-, pc, -, stack⟩ := hs
  cases h with
  | on _ _ hpc => rcases hpc with hpc | hpc | hpc <;> rw [hpc] <;> bv_omega
  | jump _ _ hpc | call _ _ _ _ _ hpc => omega
  | ret j hj _ _ hpc =>
    obtain ⟨hlo, hhi⟩ := stack j (by omega)
    rw [hpc]
    bv_omega

theorem goodState_of_completes {i : Instr} (hs : GoodState s) (h : Completes i s t) (hfetched : s.pc.toNat ≤ 0xFFE) :
    GoodState t := by
  have ⟨mem, _, err, _⟩ := hs
  exact ⟨h.memory mem, goodPc_of_controlMoves h.control hs hfetched, h.silent.2 ▸ err,
    goodStack_of_controlMoves h.control hs hfetched⟩

end Sys2Proof.Safety

/-- Settles O50: an instruction that completes and an error both keep the invariant. -/
theorem stepKeepsInvariant : Obligations.StepKeepsInvariant := by
  intro s t hs h
  rcases step_completes_or_raises s with ⟨i, t', h', done, hpc⟩ | ⟨c, w, h', hc⟩ <;> cases h.symm.trans h'
  · exact goodState_of_completes hs done hpc
  · exact goodState_raise hs w hc

/-- Settles O51: memory lists nothing, the stack is empty, and PC and `ERR` are constants. -/
theorem resetMeetsInvariant : Obligations.ResetMeetsInvariant :=
  ⟨Memory.reset_wf, by decide, rfl, fun _ h => absurd h (Nat.not_lt_zero _)⟩

namespace Sys2Proof.Machine

variable {s : State}

/-- Once the core has been reset every transaction is answered, by the state the named operation gives. -/
theorem transactOn_answers (a : Transaction) (s : State) : ∃ t r, transactOn a s = .next (t, r) := by
  cases a with
  | step =>
    obtain ⟨t, h, -⟩ := stepCompletesOrTakesOneError s
    exact ⟨t, .silent, by simp only [transactOn, h]⟩
  | reset | load | tickTimers | setKey | ackFrame | observe => exact ⟨_, _, rfl⟩

theorem transactOn_step {t : State} {r : Reply} (h : transactOn .step s = .next (t, r)) : step s = .next t := by
  obtain ⟨u, hu, -⟩ := stepCompletesOrTakesOneError s
  simp only [transactOn, hu] at h
  cases h
  exact hu

theorem transactAll_cons {a : Transaction} {m : Option State} {t : State} {r : Reply}
    (h : transact a m = .next (t, r)) (ts : List Transaction) : transactAll (a :: ts) m = transactAll ts (some t) := by
  simp only [transactAll, h]

theorem transactAll_cons_refused {a : Transaction} {m : Option State} {r : Refusal}
    (h : transact a m = .refused r) (ts : List Transaction) : transactAll (a :: ts) m = .refused r := by
  simp only [transactAll, h]

end Sys2Proof.Machine

namespace Sys2Proof.Safety

/-- A program loaded keeps the invariant: it is written inside the address space, or not at all. -/
theorem goodState_load {s : State} (hs : GoodState s) (p : List Byte) : GoodState (load p s).1 := by
  unfold load
  split
  · have fits : Config.progBase + p.length ≤ Config.memSize := Nat.add_le_add_left ‹_› Config.progBase
    exact hs.of_eq (Memory.writeBytes_wf fits hs.1) rfl rfl rfl rfl
  · exact hs

end Sys2Proof.Safety

/-- Settles O52: by the transaction; but for step, load and reset none touches what the invariant speaks of. -/
theorem transactionsKeepInvariant : Obligations.TransactionsKeepInvariant := by
  intro a s t r hs h
  cases a with
  | step => exact stepKeepsInvariant s t hs (transactOn_step h)
  | load p =>
    cases h
    exact goodState_load hs p
  | reset =>
    cases h
    exact resetMeetsInvariant.of_eq Memory.reset_wf rfl rfl rfl rfl
  | tickTimers =>
    cases h
    rw [tickTimers_eq]
    exact hs.of_eq hs.1 rfl rfl rfl rfl
  | setKey | ackFrame | observe =>
    cases h
    exact hs.of_eq hs.1 rfl rfl rfl rfl

namespace Sys2Proof.Safety

/-- Any list of transactions, from a state with the invariant, is answered with a state that has it. -/
theorem goodState_transactAll (ts : List Transaction) {s : State} (hs : GoodState s) :
    ∃ t, transactAll ts (some s) = .next (some t) ∧ GoodState t := by
  induction ts generalizing s with
  | nil => exact ⟨s, rfl, hs⟩
  | cons a ts ih =>
    obtain ⟨u, r, hu⟩ := transactOn_answers a s
    obtain ⟨t, ht, good⟩ := ih (transactionsKeepInvariant a s u r hs hu)
    exact ⟨t, (transactAll_cons (m := some s) hu ts).trans ht, good⟩

end Sys2Proof.Safety

/-- Settles O53: the first reset gives a state with the invariant, and the rest keep it. -/
theorem everyRunStaysInInvariant : Obligations.EveryRunStaysInInvariant := by
  intro ts
  obtain ⟨t, ht, good⟩ := goodState_transactAll ts resetMeetsInvariant
  exact ⟨t, (transactAll_cons rfl ts).trans ht, good⟩

/-- Settles O49: a sequence that begins otherwise is refused at once, and one that begins with reset is answered by
`everyRunStaysInInvariant`. -/
theorem nothingBeforeFirstReset : Obligations.NothingBeforeFirstReset := by
  intro t ts
  refine ⟨transact_none, ⟨fun ⟨m, hm⟩ => ?_, ?_⟩⟩
  · by_contra h
    cases (transactAll_cons_refused (transact_none h) ts).symm.trans hm
  · rintro rfl
    obtain ⟨u, hu, -⟩ := everyRunStaysInInvariant ts
    exact ⟨_, hu⟩

end
